-- ==== Sys2Proof/Word.lean ====
section
/-! DEFINITION. The words of the core and their widths (00_scope.md R6, R7). Every value is unsigned. -/

namespace Sys2Proof

/-- One byte of memory, a general register or a timer (R13, R20, R22, R23). -/
abbrev Byte := BitVec 8

/-- One 16-bit word: an instruction, the pc, the index register, a return address (R16, R18, R19, R52). -/
abbrev Word := BitVec 16

/-- A 4-bit field of an instruction word (R53). -/
abbrev Nibble := BitVec 4

/-- The 12-bit address field nnn of an instruction word (R53). -/
abbrev Addr := BitVec 12

/-- One framebuffer row; bit 63 is column 0 (R24). -/
abbrev Row := BitVec 64

/-- The number of a general register, V0 to VF (R13). -/
abbrev Reg := Fin 16

/-- A logical key (R11, R148). -/
abbrev Key := Fin 16

end Sys2Proof
end

