-- ==== Sys2Proof/Machine/Flags.lean ====
section
/-! DEFINITION. Every value the spec gives the flag register VF (42_alu.md R96; 43_display.md R116). -/

namespace Sys2Proof.Machine

/-- A flag as the byte written to VF: 1 or 0. -/
def flagByte (c : Bool) : Byte := if c then 1#8 else 0#8

/-- 8xy4: 1 iff the sum is above 255 (R104). -/
def carryFlag (a b : Byte) : Byte := flagByte (decide (255 < a.toNat + b.toNat))

/-- 8xy5 and 8xy7, for `a - b`: 1 iff there is no borrow, a >= b (R105, R107). -/
def noBorrowFlag (a b : Byte) : Byte := flagByte (decide (b.toNat ≤ a.toNat))

/-- 8xy6: bit 0 of the operand before the shift (R106). -/
def shiftedOutRight (a : Byte) : Byte := a &&& 1#8

/-- 8xyE: bit 7 of the operand before the shift (R108). -/
def shiftedOutLeft (a : Byte) : Byte := a >>> 7

/-- 8xy0 to 8xy3: always 0 (R100 to R103). -/
def clearedFlag : Byte := 0#8

/-- Dxyn: 1 iff some pixel went from on to off (R116). -/
def collisionFlag (collided : Bool) : Byte := flagByte collided

end Sys2Proof.Machine
end

