-- ==== Sys2Proof/Syntax.lean ====
section
/-! DEFINITION. The instructions: one constructor for each of the 38 rows of the opcode map (30_encoding.md R63), in
the map's order. The unrecognized space (R62) has four rows, one a digit, and each of their constructors keeps the
bits of the word it stands for. A field an instruction ignores (n of 5xyn and 9xyn, R61) is kept as well (log 8). -/

namespace Sys2Proof

inductive Instr where
  /-- 00E0 CLS: clear the framebuffer (R112). -/
  | cls
  /-- 00EE RET: return from subroutine (R88). -/
  | ret
  /-- 0nnn other than 00E0 and 00EE: NOP (R62). -/
  | nop0 (nnn : Addr)
  /-- 1nnn JP nnn (R89). -/
  | jp (nnn : Addr)
  /-- 2nnn CALL nnn (R90). -/
  | call (nnn : Addr)
  /-- 3xnn SE Vx, nn (R91). -/
  | seImm (x : Reg) (nn : Byte)
  /-- 4xnn SNE Vx, nn (R92). -/
  | sneImm (x : Reg) (nn : Byte)
  /-- 5xyn SE Vx, Vy; n is ignored (R93). -/
  | seReg (x y : Reg) (n : Nibble)
  /-- 6xnn LD Vx, nn (R98). -/
  | ldImm (x : Reg) (nn : Byte)
  /-- 7xnn ADD Vx, nn (R99). -/
  | addImm (x : Reg) (nn : Byte)
  /-- 8xy0 LD Vx, Vy (R100). -/
  | ldReg (x y : Reg)
  /-- 8xy1 OR Vx, Vy (R101). -/
  | orReg (x y : Reg)
  /-- 8xy2 AND Vx, Vy (R102). -/
  | andReg (x y : Reg)
  /-- 8xy3 XOR Vx, Vy (R103). -/
  | xorReg (x y : Reg)
  /-- 8xy4 ADD Vx, Vy (R104). -/
  | addReg (x y : Reg)
  /-- 8xy5 SUB Vx, Vy (R105). -/
  | subReg (x y : Reg)
  /-- 8xy6 SHR Vx, Vy (R106). -/
  | shr (x y : Reg)
  /-- 8xy7 SUBN Vx, Vy (R107). -/
  | subn (x y : Reg)
  /-- 8xyE SHL Vx, Vy (R108). -/
  | shl (x y : Reg)
  /-- 8xyn with n one of 8, 9, A, B, C, D, F: NOP (R62). -/
  | nop8 (x y : Reg) (n : Nibble)
  /-- 9xyn SNE Vx, Vy; n is ignored (R94). -/
  | sneReg (x y : Reg) (n : Nibble)
  /-- Annn LD I, nnn (R125). -/
  | ldI (nnn : Addr)
  /-- Bnnn JP V0, nnn (R95). -/
  | jpV0 (nnn : Addr)
  /-- Cxnn RND Vx, nn (R109). -/
  | rnd (x : Reg) (nn : Byte)
  /-- Dxyn DRW Vx, Vy, n (R113). -/
  | drw (x y : Reg) (n : Nibble)
  /-- Ex9E SKP Vx (R119). -/
  | skp (x : Reg)
  /-- ExA1 SKNP Vx (R120). -/
  | sknp (x : Reg)
  /-- Exnn with nn neither 9E nor A1: NOP (R62). -/
  | nopE (x : Reg) (nn : Byte)
  /-- Fx07 LD Vx, DT (R122). -/
  | ldVxDt (x : Reg)
  /-- Fx0A LD Vx, K (R121). -/
  | ldVxK (x : Reg)
  /-- Fx15 LD DT, Vx (R123). -/
  | ldDtVx (x : Reg)
  /-- Fx18 LD ST, Vx (R124). -/
  | ldStVx (x : Reg)
  /-- Fx1E ADD I, Vx (R126). -/
  | addI (x : Reg)
  /-- Fx29 LD F, Vx (R127). -/
  | ldF (x : Reg)
  /-- Fx33 LD B, Vx (R128). -/
  | ldB (x : Reg)
  /-- Fx55 LD [I], Vx (R129). -/
  | storeRegs (x : Reg)
  /-- Fx65 LD Vx, [I] (R130). -/
  | loadRegs (x : Reg)
  /-- Fxnn with nn none of 07, 0A, 15, 18, 1E, 29, 33, 55, 65: NOP (R62). -/
  | nopF (x : Reg) (nn : Byte)
deriving DecidableEq, Repr

end Sys2Proof
end

