-- ==== Sys2Proof/WellFormed.lean ====
section
/-! DEFINITION. Which instruction terms stand for a word. Every field is as wide as the word's field, so the only
terms to refuse are the four NOP rows holding the bits of another row of their digit (30_encoding.md R62, R64). -/

namespace Sys2Proof

/-- R57: a digit-0 word is unrecognized unless it is exactly 00E0 or 00EE. -/
def unrecognized0 (nnn : Addr) : Bool :=
  !(nnn == 0x0E0#12 || nnn == 0x0EE#12)

/-- R58: n = 8, 9, A, B, C, D or F is unrecognized under digit 8. -/
def unrecognized8 (n : Nibble) : Bool :=
  n == 0x8#4 || n == 0x9#4 || n == 0xA#4 || n == 0xB#4 || n == 0xC#4 || n == 0xD#4 || n == 0xF#4

/-- R59: every nn but 9E and A1 is unrecognized under digit E. -/
def unrecognizedE (nn : Byte) : Bool :=
  !(nn == 0x9E#8 || nn == 0xA1#8)

/-- R60: every nn but the nine sub-opcodes is unrecognized under digit F. -/
def unrecognizedF (nn : Byte) : Bool :=
  !(nn == 0x07#8 || nn == 0x0A#8 || nn == 0x15#8 || nn == 0x18#8 || nn == 0x1E#8 || nn == 0x29#8
    || nn == 0x33#8 || nn == 0x55#8 || nn == 0x65#8)

/-- The term is what some word decodes to. -/
def Instr.wf : Instr → Bool
  | .nop0 nnn => unrecognized0 nnn
  | .nop8 _ _ n => unrecognized8 n
  | .nopE _ nn => unrecognizedE nn
  | .nopF _ nn => unrecognizedF nn
  | .cls | .ret | .jp _ | .call _ | .seImm _ _ | .sneImm _ _ | .seReg _ _ _ | .ldImm _ _ | .addImm _ _
  | .ldReg _ _ | .orReg _ _ | .andReg _ _ | .xorReg _ _ | .addReg _ _ | .subReg _ _ | .shr _ _ | .subn _ _
  | .shl _ _ | .sneReg _ _ _ | .ldI _ | .jpV0 _ | .rnd _ _ | .drw _ _ _ | .skp _ | .sknp _ | .ldVxDt _
  | .ldVxK _ | .ldDtVx _ | .ldStVx _ | .addI _ | .ldF _ | .ldB _ | .storeRegs _ | .loadRegs _ => true

end Sys2Proof
end

