-- ==== Sys2Proof/Decode.lean ====
section
/-! DEFINITION. The decoder (30_encoding.md R52 to R67), total on every word, and after it the encoder, both written
from the opcode map R63. -/

namespace Sys2Proof

/-! ## The fields of a word (R53) -/

/-- The primary opcode `w[15:12]`. -/
def digitOf (w : Word) : Nibble := w.extractLsb' 12 4

/-- The bits `w[11:8]`. -/
def xFieldOf (w : Word) : Nibble := w.extractLsb' 8 4

/-- The bits `w[7:4]`. -/
def yFieldOf (w : Word) : Nibble := w.extractLsb' 4 4

/-- The bits `w[3:0]`. -/
def nOf (w : Word) : Nibble := w.extractLsb' 0 4

/-- The bits `w[7:0]`. -/
def nnOf (w : Word) : Byte := w.extractLsb' 0 8

/-- The bits `w[11:0]`. -/
def nnnOf (w : Word) : Addr := w.extractLsb' 0 12

/-- A register field names the register of that number (R54). -/
def regOf (f : Nibble) : Reg := f.toFin

/-- The register field that names a register. -/
def regField (r : Reg) : Nibble := BitVec.ofFin r

/-! ## Decoding -/

/-- Digit 0 selects on the whole low 12 bits (R57). -/
def decode0 (nnn : Addr) : Instr :=
  match nnn with
  | 0x0E0#12 => .cls
  | 0x0EE#12 => .ret
  | nnn => .nop0 nnn

/-- Digit 8 selects on n (R58). -/
def decode8 (x y : Reg) (n : Nibble) : Instr :=
  match n with
  | 0x0#4 => .ldReg x y
  | 0x1#4 => .orReg x y
  | 0x2#4 => .andReg x y
  | 0x3#4 => .xorReg x y
  | 0x4#4 => .addReg x y
  | 0x5#4 => .subReg x y
  | 0x6#4 => .shr x y
  | 0x7#4 => .subn x y
  | 0xE#4 => .shl x y
  | n => .nop8 x y n

/-- Digit E selects on nn (R59). -/
def decodeE (x : Reg) (nn : Byte) : Instr :=
  match nn with
  | 0x9E#8 => .skp x
  | 0xA1#8 => .sknp x
  | nn => .nopE x nn

/-- Digit F selects on nn (R60). -/
def decodeF (x : Reg) (nn : Byte) : Instr :=
  match nn with
  | 0x07#8 => .ldVxDt x
  | 0x0A#8 => .ldVxK x
  | 0x15#8 => .ldDtVx x
  | 0x18#8 => .ldStVx x
  | 0x1E#8 => .addI x
  | 0x29#8 => .ldF x
  | 0x33#8 => .ldB x
  | 0x55#8 => .storeRegs x
  | 0x65#8 => .loadRegs x
  | nn => .nopF x nn

/-- The instruction a word is: primary dispatch on the leading digit (R55, R56). -/
def decode (w : Word) : Instr :=
  let x := regOf (xFieldOf w)
  let y := regOf (yFieldOf w)
  match digitOf w with
  | 0x0#4 => decode0 (nnnOf w)
  | 0x1#4 => .jp (nnnOf w)
  | 0x2#4 => .call (nnnOf w)
  | 0x3#4 => .seImm x (nnOf w)
  | 0x4#4 => .sneImm x (nnOf w)
  | 0x5#4 => .seReg x y (nOf w)
  | 0x6#4 => .ldImm x (nnOf w)
  | 0x7#4 => .addImm x (nnOf w)
  | 0x8#4 => decode8 x y (nOf w)
  | 0x9#4 => .sneReg x y (nOf w)
  | 0xA#4 => .ldI (nnnOf w)
  | 0xB#4 => .jpV0 (nnnOf w)
  | 0xC#4 => .rnd x (nnOf w)
  | 0xD#4 => .drw x y (nOf w)
  | 0xE#4 => decodeE x (nnOf w)
  | _ => decodeF x (nnOf w)

/-- Why bytes hold no instruction. No word is refused (R67); only a list too short to hold a word is. -/
inductive DecodeError where
  | fewerThanTwoBytes
deriving DecidableEq, Repr

/-- The word of two bytes, the first one the high byte (big-endian, R34). -/
def wordOfBytes (hi lo : Byte) : Word := hi ++ lo

/-- The first instruction of a list of bytes, and the bytes after it (R52, R66: every instruction is 2 bytes). -/
def decodeBytes : List Byte → Except DecodeError (Instr × List Byte)
  | hi :: lo :: rest => .ok (decode (wordOfBytes hi lo), rest)
  | [_] => .error .fewerThanTwoBytes
  | [] => .error .fewerThanTwoBytes

/-! ## Encoding -/

/-- The word of four nibbles, leading digit first. -/
def wordOfNibbles (d x y n : Nibble) : Word := d ++ x ++ y ++ n

/-- The word of a digit, a register and a byte: the format digit:x:nn. -/
def wordOfByteForm (d : Nibble) (x : Reg) (nn : Byte) : Word := d ++ regField x ++ nn

/-- The word of a digit and an address: the format digit:nnn. -/
def wordOfAddrForm (d : Nibble) (nnn : Addr) : Word := d ++ nnn

/-- The word of an instruction (R63, and the encoding line of each instruction's rule). -/
def encode : Instr → Word
  | .cls => 0x00E0#16
  | .ret => 0x00EE#16
  | .nop0 nnn => wordOfAddrForm 0x0#4 nnn
  | .jp nnn => wordOfAddrForm 0x1#4 nnn
  | .call nnn => wordOfAddrForm 0x2#4 nnn
  | .seImm x nn => wordOfByteForm 0x3#4 x nn
  | .sneImm x nn => wordOfByteForm 0x4#4 x nn
  | .seReg x y n => wordOfNibbles 0x5#4 (regField x) (regField y) n
  | .ldImm x nn => wordOfByteForm 0x6#4 x nn
  | .addImm x nn => wordOfByteForm 0x7#4 x nn
  | .ldReg x y => wordOfNibbles 0x8#4 (regField x) (regField y) 0x0#4
  | .orReg x y => wordOfNibbles 0x8#4 (regField x) (regField y) 0x1#4
  | .andReg x y => wordOfNibbles 0x8#4 (regField x) (regField y) 0x2#4
  | .xorReg x y => wordOfNibbles 0x8#4 (regField x) (regField y) 0x3#4
  | .addReg x y => wordOfNibbles 0x8#4 (regField x) (regField y) 0x4#4
  | .subReg x y => wordOfNibbles 0x8#4 (regField x) (regField y) 0x5#4
  | .shr x y => wordOfNibbles 0x8#4 (regField x) (regField y) 0x6#4
  | .subn x y => wordOfNibbles 0x8#4 (regField x) (regField y) 0x7#4
  | .shl x y => wordOfNibbles 0x8#4 (regField x) (regField y) 0xE#4
  | .nop8 x y n => wordOfNibbles 0x8#4 (regField x) (regField y) n
  | .sneReg x y n => wordOfNibbles 0x9#4 (regField x) (regField y) n
  | .ldI nnn => wordOfAddrForm 0xA#4 nnn
  | .jpV0 nnn => wordOfAddrForm 0xB#4 nnn
  | .rnd x nn => wordOfByteForm 0xC#4 x nn
  | .drw x y n => wordOfNibbles 0xD#4 (regField x) (regField y) n
  | .skp x => wordOfByteForm 0xE#4 x 0x9E#8
  | .sknp x => wordOfByteForm 0xE#4 x 0xA1#8
  | .nopE x nn => wordOfByteForm 0xE#4 x nn
  | .ldVxDt x => wordOfByteForm 0xF#4 x 0x07#8
  | .ldVxK x => wordOfByteForm 0xF#4 x 0x0A#8
  | .ldDtVx x => wordOfByteForm 0xF#4 x 0x15#8
  | .ldStVx x => wordOfByteForm 0xF#4 x 0x18#8
  | .addI x => wordOfByteForm 0xF#4 x 0x1E#8
  | .ldF x => wordOfByteForm 0xF#4 x 0x29#8
  | .ldB x => wordOfByteForm 0xF#4 x 0x33#8
  | .storeRegs x => wordOfByteForm 0xF#4 x 0x55#8
  | .loadRegs x => wordOfByteForm 0xF#4 x 0x65#8
  | .nopF x nn => wordOfByteForm 0xF#4 x nn

/-- The bytes of a word as memory holds it: the high byte at the lower address (R34). -/
def bytesOfWord (w : Word) : List Byte := [w.extractLsb' 8 8, w.extractLsb' 0 8]

/-! ## The opcode map as the spec prints it (R63) -/

/-- The match and the mask of each of the 38 rows of R63, in order. -/
def opcodeMap : List (Word × Word) :=
  [(0x00E0#16, 0xFFFF#16), (0x00EE#16, 0xFFFF#16), (0x0000#16, 0xF000#16), (0x1000#16, 0xF000#16),
   (0x2000#16, 0xF000#16), (0x3000#16, 0xF000#16), (0x4000#16, 0xF000#16), (0x5000#16, 0xF000#16),
   (0x6000#16, 0xF000#16), (0x7000#16, 0xF000#16), (0x8000#16, 0xF00F#16), (0x8001#16, 0xF00F#16),
   (0x8002#16, 0xF00F#16), (0x8003#16, 0xF00F#16), (0x8004#16, 0xF00F#16), (0x8005#16, 0xF00F#16),
   (0x8006#16, 0xF00F#16), (0x8007#16, 0xF00F#16), (0x800E#16, 0xF00F#16), (0x8000#16, 0xF000#16),
   (0x9000#16, 0xF000#16), (0xA000#16, 0xF000#16), (0xB000#16, 0xF000#16), (0xC000#16, 0xF000#16),
   (0xD000#16, 0xF000#16), (0xE09E#16, 0xF0FF#16), (0xE0A1#16, 0xF0FF#16), (0xE000#16, 0xF000#16),
   (0xF007#16, 0xF0FF#16), (0xF00A#16, 0xF0FF#16), (0xF015#16, 0xF0FF#16), (0xF018#16, 0xF0FF#16),
   (0xF01E#16, 0xF0FF#16), (0xF029#16, 0xF0FF#16), (0xF033#16, 0xF0FF#16), (0xF055#16, 0xF0FF#16),
   (0xF065#16, 0xF0FF#16), (0xF000#16, 0xF000#16)]

/-- The number R63 gives an instruction's row, 1 to 38. -/
def Instr.rowNumber : Instr → Nat
  | .cls => 1
  | .ret => 2
  | .nop0 _ => 3
  | .jp _ => 4
  | .call _ => 5
  | .seImm _ _ => 6
  | .sneImm _ _ => 7
  | .seReg _ _ _ => 8
  | .ldImm _ _ => 9
  | .addImm _ _ => 10
  | .ldReg _ _ => 11
  | .orReg _ _ => 12
  | .andReg _ _ => 13
  | .xorReg _ _ => 14
  | .addReg _ _ => 15
  | .subReg _ _ => 16
  | .shr _ _ => 17
  | .subn _ _ => 18
  | .shl _ _ => 19
  | .nop8 _ _ _ => 20
  | .sneReg _ _ _ => 21
  | .ldI _ => 22
  | .jpV0 _ => 23
  | .rnd _ _ => 24
  | .drw _ _ _ => 25
  | .skp _ => 26
  | .sknp _ => 27
  | .nopE _ _ => 28
  | .ldVxDt _ => 29
  | .ldVxK _ => 30
  | .ldDtVx _ => 31
  | .ldStVx _ => 32
  | .addI _ => 33
  | .ldF _ => 34
  | .ldB _ => 35
  | .storeRegs _ => 36
  | .loadRegs _ => 37
  | .nopF _ _ => 38

/-- The word agrees with a row of the map: `(w & mask) == match` (R63). -/
def matchesRow (w : Word) (row : Word × Word) : Bool := w &&& row.2 == row.1

/-- The number of the first row of the map that the word agrees with; none if there is none (R63). -/
def firstRow (w : Word) : Option Nat :=
  (opcodeMap.findIdx? (matchesRow w)).map (· + 1)

/-- The word of an instruction is the number `n`, and that word decodes to it. -/
def Instr.encodedAs (i : Instr) (n : Nat) : Prop := (encode i).toNat = n ∧ decode (encode i) = i

/-! ## The host's question (one word of the opcode table) -/

/-- The instruction the decoder reads from a table word: bit 0 of `w` is the least significant bit of the word. The
word is laid out as memory holds it and given to the byte decoder. -/
def decodeTableWord (nbits w : Nat) : Option Instr :=
  if nbits ≤ 16 ∧ w < 2 ^ 16 then
    match decodeBytes (bytesOfWord (BitVec.ofNat 16 w)) with
    | .ok (i, _) => some i
    | .error _ => none
  else none

end Sys2Proof
end

