-- ==== Sys2Proof/Config.lean ====
section
/-! DEFINITION. The configuration `create` fixes for the machine's life (10_state.md R12, R28; 60_exceptions.md R146),
and the one free value of the model, the random byte (60_exceptions.md R150). -/

namespace Sys2Proof

/-- What happens to sprite rows past row 31 (R115). -/
inductive RowMode where
  | wrap
  | clip
deriving DecidableEq, Repr

/-- What happens to sprite pixels past column 63 (R114). -/
inductive ColMode where
  | clip
  | wrap
deriving DecidableEq, Repr

/-- What Fx1E does when the 16-bit index register would overflow (R126). -/
inductive IndexOverflow where
  | fault
  | wrap
deriving DecidableEq, Repr

/-- The arguments of `create` (R12): the three quirks of R28 and the parameters of R6. -/
structure Config where
  /-- SHIFT_USES_VY: 8xy6 and 8xyE shift V[y] and not V[x]. -/
  shiftUsesVy : Bool
  /-- JUMP_USES_VX: Bnnn adds V[nnn[11:8]] and not V0. -/
  jumpUsesVx : Bool
  /-- STORE_INCREMENTS_I: Fx55 adds x + 1 to I. -/
  storeIncrementsI : Bool
  /-- FONT_BASE (R21). -/
  fontBase : Word
  /-- FONT_DATA: 16 glyphs of 5 bytes (R21). -/
  fontData : Vector Byte 80
  /-- MAX_STACK_DEPTH (R19). -/
  maxStackDepth : Nat
  /-- DRAW_ROW_MODE (R115). -/
  drawRowMode : RowMode
  /-- DRAW_COL_MODE (R114). -/
  drawColMode : ColMode
  /-- INDEX_OVERFLOW (R126). -/
  indexOverflow : IndexOverflow
deriving DecidableEq, Repr

/-- The two limits the spec sets on the arguments of `create`: FONT_BASE + 80 <= 0x200 (R21) and
MAX_STACK_DEPTH >= 1 (R6, R12). -/
def Config.wf (c : Config) : Bool :=
  decide (c.fontBase.toNat + 80 ≤ 0x200) && decide (1 ≤ c.maxStackDepth)

/-- The `k`-th byte of the host's random source (R150). A FREE VALUE: it has no body, so that nothing can be
proved of it but what holds of every byte ("A model treats each byte as a free draw"). Log 9. -/
opaque Config.randomByte : Nat → Byte

end Sys2Proof
end

