-- ==== Sys2Proof/Machine/Defaults.lean ====
section
/-! DEFINITION. The font table of 10_state.md R21 and the one configuration `State.reset` is created with. Every
statement is about every configuration; this one only serves to have a first state (logs 1 to 5). -/

namespace Sys2Proof.Machine

/-- FONT_DATA, the conventional hexadecimal font of R21, glyph 0 first (log 3). -/
def fontTable : Vector Byte 80 :=
  #v[0xF0#8, 0x90#8, 0x90#8, 0x90#8, 0xF0#8,
     0x20#8, 0x60#8, 0x20#8, 0x20#8, 0x70#8,
     0xF0#8, 0x10#8, 0xF0#8, 0x80#8, 0xF0#8,
     0xF0#8, 0x10#8, 0xF0#8, 0x10#8, 0xF0#8,
     0x90#8, 0x90#8, 0xF0#8, 0x10#8, 0x10#8,
     0xF0#8, 0x80#8, 0xF0#8, 0x10#8, 0xF0#8,
     0xF0#8, 0x80#8, 0xF0#8, 0x90#8, 0xF0#8,
     0xF0#8, 0x10#8, 0x20#8, 0x40#8, 0x40#8,
     0xF0#8, 0x90#8, 0xF0#8, 0x90#8, 0xF0#8,
     0xF0#8, 0x90#8, 0xF0#8, 0x10#8, 0xF0#8,
     0xF0#8, 0x90#8, 0xF0#8, 0x90#8, 0x90#8,
     0xE0#8, 0x90#8, 0xE0#8, 0x90#8, 0xE0#8,
     0xF0#8, 0x80#8, 0x80#8, 0x80#8, 0xF0#8,
     0xE0#8, 0x90#8, 0x90#8, 0x90#8, 0xE0#8,
     0xF0#8, 0x80#8, 0xF0#8, 0x80#8, 0xF0#8,
     0xF0#8, 0x80#8, 0xF0#8, 0x80#8, 0x80#8]

/-- The spec's defaults where it has one (R6: MAX_STACK_DEPTH 16, rows Wrap, columns Clip, INDEX_OVERFLOW Fault), and
the conventions of 95_test_vectors.md where it has none (the quirks false, FONT_BASE 0x050). DESIGN CHOICE, unsafe
for a claim about the run from `State.reset` alone; logs 1, 2, 4 and 5. -/
def defaultConfig : Config where
  shiftUsesVy := false
  jumpUsesVx := false
  storeIncrementsI := false
  fontBase := 0x050#16
  fontData := fontTable
  maxStackDepth := 16
  drawRowMode := .wrap
  drawColMode := .clip
  indexOverflow := .fault

end Sys2Proof.Machine
end

