-- ==== Sys2Proof/Machine/State.lean ====
section
/-! DEFINITION. The state of the core, 10_state.md R12, with its configuration, and the ports of 00_scope.md R10 as
plain data: the host's calls, the input snapshot and the results. -/

namespace Sys2Proof.Machine

/-- The error kinds (R132), with the values they record. An instruction or a fetch that meets one of the first five
TAKES it: the answer is a next state with `faulted` set (R133). The step answers the fault itself when a `step` call
is made of a machine that is faulted already: the call returns the same error and changes nothing (R81). Safe:
where the source only says that the driver decides what comes next, the model stops (D16, log 12). -/
inductive Fault where
  /-- 00EE with an empty stack (R88). Raised by `execRet`. Safe. -/
  | stackUnderflow
  /-- 2nnn with MAX_STACK_DEPTH entries on the stack (R90). Raised by `execCall`. Safe for a bound no larger than
  the hardware's; the bound is a parameter (D4, log 4). -/
  | stackOverflow
  /-- An access above 0xFFF; records the first such address (R38). Raised by the fetch and by `execDrw`, `execLdB`,
  `execStoreRegs`, `execLoadRegs`. Safe (D7, log 17). -/
  | memOutOfBounds (a : Nat)
  /-- Ex9E or ExA1 with V[x] > 15; records V[x] (R119). Raised by `execSkp` and `execSknp`. Safe (D17, log 18). -/
  | keyOutOfRange (k : Nat)
  /-- Fx1E past 0xFFFF under INDEX_OVERFLOW = Fault; records I + V[x] (R126). Raised by `execAddI`. Safe (D18). -/
  | indexOverflow (s : Nat)
  /-- A program longer than 3584 bytes; records its length (R157). Returned by `load_program`; no step answers it as
  a fault, and it leaves the machine unfaulted (R151). Safe. -/
  | programTooLarge (len : Nat)
deriving DecidableEq, Repr

/-- Why a step has no meaning. -/
inductive Refusal where
  /-- An instruction without a meaning yet, refused in exec's arm. No arm refuses. Safe. -/
  | notModelled (mnemonic : String)
  /-- `load_program` after the first `step`: a model admits it only before (R157, D32, U19). Raised by
  `State.loadProgram`. Safe. -/
  | loadAfterStep
deriving DecidableEq, Repr

/-- The memory cells whose contents differ from their reset contents, by rising address (R20). -/
abbrev Memory := List Host.Cell

/-- The framebuffer (R24). -/
abbrev Framebuffer := Vector Row 32

/-- The input snapshot of one `step` call (R148). -/
structure Input where
  /-- Which of the 16 logical keys are held. -/
  held : Vector Bool 16
  /-- The logical key released this tick, if any. -/
  released : Option Key
deriving DecidableEq, Repr

/-- No key held and none released. -/
def Input.idle : Input := { held := Vector.replicate 16 false, released := none }

/-- A call the host makes of the core between steps (R152). `create` is `State.create`; reading the framebuffer, the
dirty flag and `sound_active` changes nothing and is no request. -/
inductive Request where
  /-- `load_program(bytes)` (R157). -/
  | loadProgram (bytes : List Byte)
  /-- `step(ipf, input, rng)` (R70). -/
  | step (ipf : BitVec 32) (input : Input)
  /-- The host has rendered and clears `dirty` (R147). -/
  | clearDirty
deriving DecidableEq, Repr

/-- What a `step` or `load_program` call returns (R151). -/
inductive CallResult where
  | ok
  | err (e : Fault)
deriving DecidableEq, Repr

/-- The host's side of the ports, the MODEL'S OWN fields (R10; logs 10, 14, 27). -/
structure HostPort where
  /-- The calls the host is going to make, the next one first. -/
  requests : List Request
  /-- Inside a `step` call: how many instructions it may still run. Between calls: none. -/
  left : Option Nat
  /-- The snapshot of the current or the last `step` call, fixed for the whole of the call (R83). -/
  input : Input
  /-- A `step` call has been made. -/
  started : Bool
  /-- What the last finished call returned. -/
  result : Option CallResult
deriving DecidableEq, Repr

structure State where
  /-- The 4096 bytes of memory (R20). -/
  mem : Memory
  /-- V0 to VF (R13). -/
  v : Vector Byte 16
  /-- The index register (R18). -/
  i : Word
  /-- The program counter (R16). -/
  pc : Word
  /-- The call stack, the entry pushed last first (R19, log 19). -/
  stack : List Word
  /-- The delay timer (R22). -/
  dt : Byte
  /-- The sound timer (R23). -/
  st : Byte
  /-- The framebuffer (R24). -/
  fb : Framebuffer
  /-- The framebuffer-dirty flag (R25). -/
  dirty : Bool
  /-- The did-jump control flag, false at every instruction boundary (R26, log 13). -/
  didJump : Bool
  /-- Waiting for a key, with the target register (R27). -/
  waiting : Option Reg
  /-- The fatal error met (R30). -/
  faulted : Option Fault
  /-- The arguments of `create` (R12, R28, R155). -/
  cfg : Config
  /-- How many random bytes have been drawn; the MODEL'S OWN counter (R150, log 9). -/
  draws : Nat
  /-- The host's side of the ports; the MODEL'S OWN. -/
  host : HostPort
deriving DecidableEq, Repr

/-- `create(quirks, params)`: the machine in its reset state (R33, R146, R153). Nothing is listed in memory, so every
byte reads as its reset content (`Config.resetByte`). -/
def State.create (cfg : Config) : State where
  mem := []
  v := Vector.replicate 16 0#8
  i := 0#16
  pc := 0x200#16
  stack := []
  dt := 0#8
  st := 0#8
  fb := Vector.replicate 32 0#64
  dirty := false
  didJump := false
  waiting := none
  faulted := none
  cfg := cfg
  draws := 0
  host := { requests := [], left := none, input := Input.idle, started := false, result := none }

/-- The machine right after reset: created with the default configuration. -/
def State.reset : State := State.create defaultConfig

end Sys2Proof.Machine
end

