-- ==== Sys2Proof/Machine/Ops.lean ====
section
/-! DEFINITION. The named operations over memory, registers and control state that the instructions and the engine
share, and taking an error (60_exceptions.md R133), the core's only exception. There is no return from one (R138). -/

namespace Sys2Proof.Machine

/-! ## One update a field -/

def State.setMem (s : State) (m : Memory) : State := { s with mem := m }
def State.setV (s : State) (v : Vector Byte 16) : State := { s with v := v }
def State.setI (s : State) (w : Word) : State := { s with i := w }
def State.setPc (s : State) (w : Word) : State := { s with pc := w }
def State.setStack (s : State) (l : List Word) : State := { s with stack := l }
def State.setDt (s : State) (b : Byte) : State := { s with dt := b }
def State.setSt (s : State) (b : Byte) : State := { s with st := b }
def State.setFb (s : State) (f : Framebuffer) : State := { s with fb := f }
def State.setDirty (s : State) (b : Bool) : State := { s with dirty := b }
def State.setDidJump (s : State) (b : Bool) : State := { s with didJump := b }
def State.setWaiting (s : State) (w : Option Reg) : State := { s with waiting := w }
def State.setFaulted (s : State) (f : Option Fault) : State := { s with faulted := f }
def State.setDraws (s : State) (n : Nat) : State := { s with draws := n }
def State.setHost (s : State) (h : HostPort) : State := { s with host := h }

/-! ## General registers (R13) -/

/-- `V[r]`. -/
def State.reg (s : State) (r : Reg) : Byte := s.v[r]

/-- `V[r] <- b`. -/
def State.setReg (s : State) (r : Reg) (b : Byte) : State := s.setV (s.v.set r b)

/-- `VF`, the flag register (R14). -/
def regVF : Reg := 15

/-- The result and then the flag of the group 8xyn: the flag is the final write, so it stays when x = F (R97). -/
def State.setRegFlag (s : State) (x : Reg) (res flag : Byte) : State :=
  (s.setReg x res).setReg regVF flag

/-! ## Memory (R20, R34 to R39) -/

/-- How many bytes there are: addresses 0x000 to 0xFFF (R20). -/
def memSize : Nat := 0x1000

/-- The contents of a byte at creation, which is what an address the memory does not list reads as: FONT_DATA from
FONT_BASE on, and 0 elsewhere (R20, R33; D21, log 6). -/
def resetByte (cfg : Config) (a : Nat) : Byte :=
  if h : cfg.fontBase.toNat ≤ a ∧ a < cfg.fontBase.toNat + 80 then
    cfg.fontData[a - cfg.fontBase.toNat]
  else 0#8

/-- The byte listed at an address. -/
def Memory.lookup : Memory → Nat → Option Byte
  | [], _ => none
  | (k, b) :: m, a => if k = a then some b else Memory.lookup m a

/-- List a byte at an address, in the place the rising order gives it. -/
def Memory.insert : Memory → Nat → Byte → Memory
  | [], a, b => [(a, b)]
  | (k, c) :: m, a, b =>
    if a < k then (a, b) :: (k, c) :: m
    else if k = a then (a, b) :: m
    else (k, c) :: Memory.insert m a b

/-- List nothing at an address. -/
def Memory.erase (m : Memory) (a : Nat) : Memory := m.filter (fun c => c.1 != a)

/-- The canonical form, for the contents `d` of unlisted addresses: addresses rising strictly and in range, and no
entry equal to what its address would read as unlisted. -/
abbrev Memory.wf (d : Nat → Byte) (m : Memory) : Prop :=
  m.Pairwise (fun c e => c.1 < e.1) ∧ ∀ c ∈ m, c.1 < memSize ∧ c.2 ≠ d c.1

/-- The memory of a state is in canonical form. -/
abbrev State.memWf (s : State) : Prop := Memory.wf (resetByte s.cfg) s.mem

/-- `MemRead(a, 1)`, for an address that `Check` has passed. -/
def State.readByte (s : State) (a : Nat) : Byte := (s.mem.lookup a).getD (resetByte s.cfg a)

/-- `MemWrite(a, 1, b)`, for an address that `Check` has passed. A byte set back to its reset content is not listed. -/
def State.writeByte (s : State) (a : Nat) (b : Byte) : State :=
  s.setMem (if b = resetByte s.cfg a then s.mem.erase a else s.mem.insert a b)

/-- One-byte reads at `n` consecutive addresses (R35). -/
def State.readBytes (s : State) (a : Nat) : Nat → List Byte
  | 0 => []
  | n + 1 => s.readByte a :: s.readBytes (a + 1) n

/-- One-byte writes at consecutive addresses, the lowest first (R35). -/
def State.writeBytes (s : State) (a : Nat) : List Byte → State
  | [] => s
  | b :: bs => (s.writeByte a b).writeBytes (a + 1) bs

/-- `Check(a, n)`: the first address of a..a+n-1 above 0xFFF, if there is one. Addresses are natural numbers and do
not wrap (R38). -/
def checkRange (a n : Nat) : Option Nat :=
  if n = 0 ∨ a + n ≤ memSize then none else some (max a memSize)

/-! ## Taking an error (R133, R134) -/

/-- `raise E`: nothing is written but `faulted`; the pc stays at the instruction. The engine then ends the call
without the tick. -/
def State.raise (s : State) (e : Fault) : State := s.setFaulted (some e)

/-- `Check(a, n)` before an effect: the error for the first address out of range, or the effect on the state as it
was (R38, R82). -/
def State.checked (s : State) (a n : Nat) (effect : State → State) : State :=
  match checkRange a n with
  | some bad => s.raise (.memOutOfBounds bad)
  | none => effect s

/-! ## Control transfer (R74, R75) -/

/-- `pc <- target; did_jump <- true`. -/
def State.jump (s : State) (target : Word) : State := (s.setPc target).setDidJump true

/-- The extra 2 of a skip whose condition holds. PC arithmetic is modulo 2^16 (R17). -/
def State.skipIf (s : State) (c : Bool) : State := if c then s.setPc (s.pc + 2) else s

/-- The end of a cycle: pc + 2 unless the instruction raised, waits for a key or jumped (R72, R75), and did_jump is used
up, so that it is false at the instruction boundary (R26; log 13). -/
def State.advance (s : State) : State :=
  (if s.faulted = none ∧ s.waiting = none ∧ s.didJump = false then s.setPc (s.pc + 2) else s).setDidJump false

/-! ## Timers and the end of a call (R71, R77) -/

/-- One less, floor 0. -/
def tickByte (b : Byte) : Byte := if b = 0 then 0 else b - 1

/-- `tick()` (R77). -/
def State.tick (s : State) : State := (s.setDt (tickByte s.dt)).setSt (tickByte s.st)

/-- The call returns a result: no call is in progress any more (R151). -/
def State.endCall (s : State) (r : CallResult) : State :=
  s.setHost { s.host with left := none, result := some r }

/-- A `step` call that returns Ok ticks the timers first (R71). -/
def State.finishStep (s : State) : State := s.tick.endCall .ok

/-! ## Outputs (R147, R149) -/

/-- `sound_active`: true iff ST > 0 (R149). -/
def State.soundActive (s : State) : Bool := decide (0 < s.st.toNat)

/-- Pixel (column c, row r) is bit 63 - c of row r (R111). -/
def State.pixel (s : State) (c : Fin 64) (r : Fin 32) : Bool := s.fb[r].getLsbD (63 - c)

end Sys2Proof.Machine
end

