-- ==== Sys2Proof/Machine/Operands.lean ====
section
/-! DEFINITION. The operand forms: how an instruction's fields name the values and addresses it works on
(30_encoding.md R54 and the instruction rules). -/

namespace Sys2Proof.Machine

/-- An address field as a 16-bit pc or index: zero-extended (R54). -/
def addrWord (nnn : Addr) : Word := nnn.setWidth 16

/-- The operand of a shift: V[y] when SHIFT_USES_VY, else V[x] (R28, R106, R108). -/
def State.shiftOperand (s : State) (x y : Reg) : Byte :=
  if s.cfg.shiftUsesVy then s.reg y else s.reg x

/-- The offset register of Bnnn: V[nnn[11:8]] when JUMP_USES_VX, else V0 (R28, R95). -/
def offsetReg (cfg : Config) (nnn : Addr) : Reg :=
  if cfg.jumpUsesVx then regOf (nnn.extractLsb' 8 4) else 0

/-- The target of Bnnn, a natural-number sum that fits 16 bits (R95). -/
def State.offsetTarget (s : State) (nnn : Addr) : Word :=
  BitVec.ofNat 16 (nnn.toNat + (s.reg (offsetReg s.cfg nnn)).toNat)

/-- The address of the glyph of a value, not clamped to the 16 glyphs (R50, R127). -/
def glyphAddr (cfg : Config) (b : Byte) : Word :=
  BitVec.ofNat 16 (cfg.fontBase.toNat + 5 * b.toNat)

/-- `I + V[x]` as a natural number (R126). -/
def State.indexSum (s : State) (x : Reg) : Nat := s.i.toNat + (s.reg x).toNat

/-- Hundreds, tens and units of a byte (R128). -/
def bcdDigits (b : Byte) : List Byte :=
  [BitVec.ofNat 8 (b.toNat / 100), BitVec.ofNat 8 (b.toNat / 10 % 10), BitVec.ofNat 8 (b.toNat % 10)]

/-- How many registers V0..Vx are (R129, R130). -/
def blockLen (x : Reg) : Nat := x.val + 1

/-- The bytes of V0..Vx (R129). -/
def State.blockBytes (s : State) (x : Reg) : List Byte := s.v.toList.take (blockLen x)

/-- The registers after V0..Vx are loaded from memory at I (R130). -/
def State.blockLoaded (s : State) (x : Reg) : Vector Byte 16 :=
  Vector.ofFn fun k => if k ≤ x then s.readByte (s.i.toNat + k.val) else s.reg k

/-- The column a sprite starts at (R113). -/
def State.spriteColumn (s : State) (x : Reg) : Nat := (s.reg x).toNat % 64

/-- The row a sprite starts at (R113). -/
def State.spriteRow (s : State) (y : Reg) : Nat := (s.reg y).toNat % 32

/-- `Held(k)` in the input snapshot of the call (R83, R148). -/
def State.keyHeld (s : State) (k : Key) : Bool := s.host.input.held[k]

/-- The logical key a register value names; none above 15 (R119). -/
def keyOf (b : Byte) : Option Key := if h : b.toNat < 16 then some ⟨b.toNat, h⟩ else none

end Sys2Proof.Machine
end

