-- ==== Sys2Proof/Machine/Alu.lean ====
section
/-! DEFINITION. Register loads, arithmetic and random (42_alu.md R96 to R110). None raises an error or touches memory.
In the group 8xyn both operands are read from the state before any write, and the flag is written last (R97). -/

namespace Sys2Proof.Machine

/-- 6xnn LD Vx, nn (R98). -/
def execLdImm (x : Reg) (nn : Byte) (s : State) : Host.Outcome State Fault Refusal :=
  .next (s.setReg x nn)

/-- 7xnn ADD Vx, nn: modulo 256, no flag (R99). -/
def execAddImm (x : Reg) (nn : Byte) (s : State) : Host.Outcome State Fault Refusal :=
  .next (s.setReg x (s.reg x + nn))

/-- 8xy0 LD Vx, Vy; VF <- 0 (R100). -/
def execLdReg (x y : Reg) (s : State) : Host.Outcome State Fault Refusal :=
  .next (s.setRegFlag x (s.reg y) clearedFlag)

/-- 8xy1 OR Vx, Vy; VF <- 0 (R101). -/
def execOrReg (x y : Reg) (s : State) : Host.Outcome State Fault Refusal :=
  .next (s.setRegFlag x (s.reg x ||| s.reg y) clearedFlag)

/-- 8xy2 AND Vx, Vy; VF <- 0 (R102). -/
def execAndReg (x y : Reg) (s : State) : Host.Outcome State Fault Refusal :=
  .next (s.setRegFlag x (s.reg x &&& s.reg y) clearedFlag)

/-- 8xy3 XOR Vx, Vy; VF <- 0 (R103). -/
def execXorReg (x y : Reg) (s : State) : Host.Outcome State Fault Refusal :=
  .next (s.setRegFlag x (s.reg x ^^^ s.reg y) clearedFlag)

/-- 8xy4 ADD Vx, Vy; VF <- carry (R104). -/
def execAddReg (x y : Reg) (s : State) : Host.Outcome State Fault Refusal :=
  .next (s.setRegFlag x (s.reg x + s.reg y) (carryFlag (s.reg x) (s.reg y)))

/-- 8xy5 SUB Vx, Vy; VF <- no borrow (R105). -/
def execSubReg (x y : Reg) (s : State) : Host.Outcome State Fault Refusal :=
  .next (s.setRegFlag x (s.reg x - s.reg y) (noBorrowFlag (s.reg x) (s.reg y)))

/-- 8xy6 SHR Vx, Vy; VF <- the bit shifted out (R106). -/
def execShr (x y : Reg) (s : State) : Host.Outcome State Fault Refusal :=
  .next (s.setRegFlag x (s.shiftOperand x y >>> 1) (shiftedOutRight (s.shiftOperand x y)))

/-- 8xy7 SUBN Vx, Vy; VF <- no borrow (R107). -/
def execSubn (x y : Reg) (s : State) : Host.Outcome State Fault Refusal :=
  .next (s.setRegFlag x (s.reg y - s.reg x) (noBorrowFlag (s.reg y) (s.reg x)))

/-- 8xyE SHL Vx, Vy; VF <- the bit shifted out (R108). -/
def execShl (x y : Reg) (s : State) : Host.Outcome State Fault Refusal :=
  .next (s.setRegFlag x (s.shiftOperand x y <<< 1) (shiftedOutLeft (s.shiftOperand x y)))

/-- Cxnn RND Vx, nn: one fresh byte of the host's source, even for the mask 0 (R109, D31). The byte is a free value
(log 9). -/
def execRnd (x : Reg) (nn : Byte) (s : State) : Host.Outcome State Fault Refusal :=
  .next ((s.setReg x (Config.randomByte s.draws &&& nn)).setDraws (s.draws + 1))

end Sys2Proof.Machine
end

