-- ==== Sys2Proof/Machine/Control.lean ====
section
/-! DEFINITION. Control transfer and skips (41_control_flow.md R86 to R95), and the unrecognized words
(30_encoding.md R62). While one executes, `pc` is the address of the instruction; the engine's cycle adds 2 after it
unless it jumped (R75). -/

namespace Sys2Proof.Machine

/-- 00EE RET (R88): `pc <- pop()`, without did_jump, so that the advance moves past the CALL. -/
def execRet (s : State) : Host.Outcome State Fault Refusal :=
  match s.stack with
  | [] => .next (s.raise .stackUnderflow)
  | top :: rest => .next ((s.setStack rest).setPc top)

/-- 1nnn JP nnn (R89). -/
def execJp (nnn : Addr) (s : State) : Host.Outcome State Fault Refusal :=
  .next (s.jump (addrWord nnn))

/-- 2nnn CALL nnn (R90): pushes its own address. -/
def execCall (nnn : Addr) (s : State) : Host.Outcome State Fault Refusal :=
  if s.stack.length ≥ s.cfg.maxStackDepth then .next (s.raise .stackOverflow)
  else .next ((s.setStack (s.pc :: s.stack)).jump (addrWord nnn))

/-- 3xnn SE Vx, nn (R91). -/
def execSeImm (x : Reg) (nn : Byte) (s : State) : Host.Outcome State Fault Refusal :=
  .next (s.skipIf (s.reg x == nn))

/-- 4xnn SNE Vx, nn (R92). -/
def execSneImm (x : Reg) (nn : Byte) (s : State) : Host.Outcome State Fault Refusal :=
  .next (s.skipIf (s.reg x != nn))

/-- 5xyn SE Vx, Vy, whatever n is (R61, R93). -/
def execSeReg (x y : Reg) (_n : Nibble) (s : State) : Host.Outcome State Fault Refusal :=
  .next (s.skipIf (s.reg x == s.reg y))

/-- 9xyn SNE Vx, Vy, whatever n is (R61, R94). -/
def execSneReg (x y : Reg) (_n : Nibble) (s : State) : Host.Outcome State Fault Refusal :=
  .next (s.skipIf (s.reg x != s.reg y))

/-- Bnnn JP V0, nnn (R95). -/
def execJpV0 (nnn : Addr) (s : State) : Host.Outcome State Fault Refusal :=
  .next (s.jump (s.offsetTarget nnn))

/-- The no-op: nothing changes (R62). -/
def State.nop (s : State) : State := s

/-- 0nnn, unrecognized (R57, R62). -/
def execNop0 (_nnn : Addr) (s : State) : Host.Outcome State Fault Refusal := .next s.nop

/-- 8xyn, unrecognized (R58, R62). -/
def execNop8 (_x _y : Reg) (_n : Nibble) (s : State) : Host.Outcome State Fault Refusal := .next s.nop

/-- Exnn, unrecognized (R59, R62). -/
def execNopE (_x : Reg) (_nn : Byte) (s : State) : Host.Outcome State Fault Refusal := .next s.nop

/-- Fxnn, unrecognized (R60, R62). -/
def execNopF (_x : Reg) (_nn : Byte) (s : State) : Host.Outcome State Fault Refusal := .next s.nop

end Sys2Proof.Machine
end

