-- ==== Sys2Proof/Machine/Display.lean ====
section
/-! DEFINITION. Framebuffer clear and sprite drawing (43_display.md R111 to R118). -/

namespace Sys2Proof.Machine

/-- 00E0 CLS: all rows 0 and `dirty` set; VF unchanged (R112). -/
def execCls (s : State) : Host.Outcome State Fault Refusal :=
  .next ((s.setFb (Vector.replicate 32 0#64)).setDirty true)

/-- `RowMask(b, cx)`: the sprite byte in a row with its bit 7 at column cx (R114). -/
def rowMask (mode : ColMode) (b : Byte) (cx : Nat) : Row :=
  let t : Row := b.setWidth 64 <<< 56
  match mode with
  | .clip => t >>> cx
  | .wrap => (t >>> cx) ||| (t <<< (64 - cx))

/-- The framebuffer row that row `row` of the plane stands for; none for a row that is skipped (R115). -/
def targetRow (mode : RowMode) (row : Nat) : Option (Fin 32) :=
  if h : row < 32 then some ⟨row, h⟩
  else
    match mode with
    | .clip => none
    | .wrap => some ⟨row % 32, Nat.mod_lt _ (by decide)⟩

/-- What a draw has done so far: the framebuffer, and whether a pixel went from on to off. -/
structure Canvas where
  fb : Framebuffer
  collided : Bool
deriving DecidableEq, Repr

/-- XOR a mask into a row; a pixel on in both collides (R113, R116). -/
def Canvas.xorRow (c : Canvas) (row : Fin 32) (m : Row) : Canvas where
  fb := c.fb.set row (c.fb[row] ^^^ m)
  collided := c.collided || (c.fb[row] &&& m) != 0#64

/-- Draw one sprite byte at row `row` and column `cx`. -/
def Canvas.drawRow (cfg : Config) (c : Canvas) (cx row : Nat) (b : Byte) : Canvas :=
  match targetRow cfg.drawRowMode row with
  | none => c
  | some r => c.xorRow r (rowMask cfg.drawColMode b cx)

/-- Draw the bytes of a sprite, the first at row `row` and each next one a row below. -/
def Canvas.drawRows (cfg : Config) (c : Canvas) (cx row : Nat) : List Byte → Canvas
  | [] => c
  | b :: bs => Canvas.drawRows cfg (Canvas.drawRow cfg c cx row b) cx (row + 1) bs

/-- The sprite of Dxyn: the n bytes at I (R113). -/
def State.sprite (s : State) (n : Nibble) : List Byte := s.readBytes s.i.toNat n.toNat

/-- The framebuffer and the collision after drawing the sprite of Dxyn. The coordinates are read before VF is written
(R113, D13). -/
def State.drawn (s : State) (x y : Reg) (n : Nibble) : Canvas :=
  Canvas.drawRows s.cfg { fb := s.fb, collided := false } (s.spriteColumn x) (s.spriteRow y) (s.sprite n)

/-- Dxyn DRW Vx, Vy, n: every address is checked first, clipped rows too (R113, D14); then the rows, VF and `dirty`
(R116, R117). -/
def execDrw (x y : Reg) (n : Nibble) (s : State) : Host.Outcome State Fault Refusal :=
  .next (s.checked s.i.toNat n.toNat fun s =>
    ((s.setFb (s.drawn x y n).fb).setReg regVF (collisionFlag (s.drawn x y n).collided)).setDirty true)

end Sys2Proof.Machine
end

