-- ==== Sys2Proof/Machine/Index.lean ====
section
/-! DEFINITION. The index register and the memory block instructions (45_index_memory.md R125 to R130). The whole
range is checked before any write (R38). -/

namespace Sys2Proof.Machine

/-- Annn LD I, nnn (R125). -/
def execLdI (nnn : Addr) (s : State) : Host.Outcome State Fault Refusal :=
  .next (s.setI (addrWord nnn))

/-- Fx1E ADD I, Vx: past 0xFFFF an error or a wrap, by INDEX_OVERFLOW; past 0xFFF nothing special; VF unchanged
(R126). -/
def execAddI (x : Reg) (s : State) : Host.Outcome State Fault Refusal :=
  if s.indexSum x > 0xFFFF ∧ s.cfg.indexOverflow = .fault then
    .next (s.raise (.indexOverflow (s.indexSum x)))
  else .next (s.setI (BitVec.ofNat 16 (s.indexSum x)))

/-- Fx29 LD F, Vx (R127). -/
def execLdF (x : Reg) (s : State) : Host.Outcome State Fault Refusal :=
  .next (s.setI (glyphAddr s.cfg (s.reg x)))

/-- Fx33 LD B, Vx (R128). -/
def execLdB (x : Reg) (s : State) : Host.Outcome State Fault Refusal :=
  .next (s.checked s.i.toNat 3 fun s => s.writeBytes s.i.toNat (bcdDigits (s.reg x)))

/-- I after a block store: x + 1 more when STORE_INCREMENTS_I (R28, R129). -/
def State.indexAfterStore (s : State) (x : Reg) : Word :=
  if s.cfg.storeIncrementsI then s.i + BitVec.ofNat 16 (blockLen x) else s.i

/-- Fx55 LD [I], Vx (R129). -/
def execStoreRegs (x : Reg) (s : State) : Host.Outcome State Fault Refusal :=
  .next (s.checked s.i.toNat (blockLen x) fun s =>
    (s.writeBytes s.i.toNat (s.blockBytes x)).setI (s.indexAfterStore x))

/-- Fx65 LD Vx, [I]; I never changes (R130). -/
def execLoadRegs (x : Reg) (s : State) : Host.Outcome State Fault Refusal :=
  .next (s.checked s.i.toNat (blockLen x) fun s => s.setV (s.blockLoaded x))

end Sys2Proof.Machine
end

