-- ==== Sys2Proof/Machine/Keys.lean ====
section
/-! DEFINITION. Key input and timers (44_keys_timers.md R119 to R124). -/

namespace Sys2Proof.Machine

/-- A key skip: the error for a value that names no key, else 2 more when the condition on the key holds (R119,
R120, D17). -/
def State.keySkip (s : State) (x : Reg) (cond : Key → Bool) : State :=
  match keyOf (s.reg x) with
  | none => s.raise (.keyOutOfRange (s.reg x).toNat)
  | some k => s.skipIf (cond k)

/-- Ex9E SKP Vx: skip if the key is held (R119). -/
def execSkp (x : Reg) (s : State) : Host.Outcome State Fault Refusal :=
  .next (s.keySkip x fun k => s.keyHeld k)

/-- ExA1 SKNP Vx: skip if the key is not held (R120). -/
def execSknp (x : Reg) (s : State) : Host.Outcome State Fault Refusal :=
  .next (s.keySkip x fun k => !s.keyHeld k)

/-- Fx0A LD Vx, K: the core waits; a later `step` call completes it (R78, R121). -/
def execLdVxK (x : Reg) (s : State) : Host.Outcome State Fault Refusal :=
  .next (s.setWaiting (some x))

/-- Fx07 LD Vx, DT (R122). -/
def execLdVxDt (x : Reg) (s : State) : Host.Outcome State Fault Refusal :=
  .next (s.setReg x s.dt)

/-- Fx15 LD DT, Vx (R123). -/
def execLdDtVx (x : Reg) (s : State) : Host.Outcome State Fault Refusal :=
  .next (s.setDt (s.reg x))

/-- Fx18 LD ST, Vx (R124). -/
def execLdStVx (x : Reg) (s : State) : Host.Outcome State Fault Refusal :=
  .next (s.setSt (s.reg x))

end Sys2Proof.Machine
end

