-- ==== Sys2Proof/Machine/Engine.lean ====
section
/-! DEFINITION. The engine (40_engine_cycle.md R70 to R85) and the host's calls (60_exceptions.md R146 to R152): the
cycle, the moves a `step` call is made of, and R71's algorithm as the spec writes it. -/

namespace Sys2Proof.Machine

/-! ## One cycle (R72) -/

/-- The word at the pc, big-endian (R34, R73). -/
def State.fetchWord (s : State) : Word :=
  wordOfBytes (s.readByte s.pc.toNat) (s.readByte (s.pc.toNat + 1))

/-- What `cycle` does after `execute`. -/
def afterExecute : Host.Outcome State Fault Refusal → Host.Outcome State Fault Refusal
  | .next t => .next t.advance
  | .fault e => .fault e
  | .refused r => .refused r

/-- `cycle`: clear did_jump, check and fetch, decode, execute, advance (R72). An error leaves `faulted` set, and
did_jump false either way (R26). -/
def State.cycle (s : State) : Host.Outcome State Fault Refusal :=
  let s := s.setDidJump false
  match checkRange s.pc.toNat 2 with
  | some bad => .next (s.raise (.memOutOfBounds bad))
  | none => afterExecute (exec (decode s.fetchWord) s)

/-! ## The moves of a `step` call (R71) -/

/-- After a cycle: an error ends the call without the tick (R133); otherwise `n` instructions are left. -/
def State.afterCycle (n : Nat) (t : State) : State :=
  match t.faulted with
  | some e => t.endCall (.err e)
  | none => t.setHost { t.host with left := some n }

/-- A cycle of the call in progress, with `n` instructions left after it. -/
def State.runCycle (s : State) (n : Nat) : Host.Outcome State Fault Refusal :=
  match s.cycle with
  | .next t => .next (t.afterCycle n)
  | .fault e => .fault e
  | .refused r => .refused r

/-- A key wait at the start of a `step` call: a released key resolves it (R78). The advance past the Fx0A, held back
until now, is made here (D19). -/
def State.resolveWait (s : State) (x : Reg) : State :=
  match s.host.input.released with
  | none => s
  | some k => (((s.setReg x (BitVec.ofNat 8 k.val)).setWaiting none).setPc (s.pc + 2))

/-- A `step` call reaches the core: its snapshot is latched. While waiting, the call only resolves the wait, ticks and
returns; else the instruction loop begins (R71). -/
def State.beginStep (s : State) (ipf : BitVec 32) (input : Input) : State :=
  let s := s.setHost { s.host with input := input, started := true }
  match s.waiting with
  | some x => (s.resolveWait x).finishStep
  | none => s.setHost { s.host with left := some ipf.toNat }

/-- Where a program is loaded (R41, R157). -/
def programBase : Nat := 0x200

/-- `load_program(bytes)` (R157): only before the first `step` (D32). -/
def State.loadProgram (s : State) (bytes : List Byte) : Host.Outcome State Fault Refusal :=
  if s.host.started then .refused .loadAfterStep
  else if bytes.length > memSize - programBase then .next (s.endCall (.err (.programTooLarge bytes.length)))
  else .next ((s.writeBytes programBase bytes).endCall .ok)

/-- The host's next call reaches the core, `s` being the state without it in the queue. A `step` call made of a
faulted machine returns the same error and changes nothing (R81). -/
def State.accept (s : State) : Request → Host.Outcome State Fault Refusal
  | .loadProgram bytes => s.loadProgram bytes
  | .clearDirty => .next (s.setDirty false)
  | .step ipf input =>
    match s.faulted with
    | some e => .fault e
    | none => .next (s.beginStep ipf input)

/-- One move of the core. Inside a `step` call: a cycle, or the tick and the return when the call's instructions are
used up or a key is awaited (R76). Between calls: the host's next call, or nothing where the host makes none (R85). -/
def State.move (s : State) : Host.Outcome State Fault Refusal :=
  match s.host.left with
  | some left =>
    match s.faulted, left with
    | some e, _ => .fault e
    | none, 0 => .next s.finishStep
    | none, n + 1 => if s.waiting.isSome then .next s.finishStep else s.runCycle n
  | none =>
    match s.host.requests with
    | [] => .next s
    | r :: rest => (s.setHost { s.host with requests := rest }).accept r

/-! ## R71 as the spec writes it -/

/-- The instruction loop and the end of `step`: at most `n` cycles (R71). -/
def stepLoop : Nat → State → Host.Outcome State Fault Refusal
  | 0, s => .next s.finishStep
  | n + 1, s =>
    if s.waiting.isSome then .next s.finishStep
    else
      match s.cycle with
      | .next t =>
        match t.faulted with
        | some e => .next (t.endCall (.err e))
        | none => stepLoop n t
      | .fault e => .fault e
      | .refused r => .refused r

/-- `step(ipf, input, rng)` in one piece (R71). -/
def stepCall (ipf : BitVec 32) (input : Input) (s : State) : Host.Outcome State Fault Refusal :=
  match s.faulted with
  | some e => .fault e
  | none =>
    let s := s.setHost { s.host with input := input, started := true }
    match s.waiting with
    | some x => .next (s.resolveWait x).finishStep
    | none => stepLoop ipf.toNat s

/-! ## Placing one instruction -/

/-- Two bytes of a word at the pc, the high one first. -/
def State.placeWord (s : State) (w : Word) : State :=
  s.writeBytes s.pc.toNat (bytesOfWord w)

/-- The state in which the next move is a cycle at a pc that a word can be fetched from: a `step` call in progress
with an instruction left, no error, no key wait (log 11). -/
def State.readyToRun (s : State) : State :=
  let s := if s.pc.toNat ≤ 0xFFE then s else s.setPc 0x200#16
  ((s.setFaulted none).setWaiting none).setHost
    { s.host with left := some (max 1 (s.host.left.getD 1)), started := true }

end Sys2Proof.Machine
end

