-- ==== Sys2Proof/Machine/Step.lean ====
section
/-! DEFINITION. The step the host runs: one move of the core. And where an instruction stands for the next step to
run it. -/

namespace Sys2Proof.Machine

/-- One move of the core (40_engine_cycle.md R71 cut into its moves; log 10). -/
def step (s : State) : Host.Outcome State Fault Refusal := s.move

/-- The state with one instruction where the next step fetches: the word in memory at the pc, in a `step` call that
may still run an instruction. `nbits` is 16 for every instruction (R66; log 11). -/
def State.withFetchWord (s : State) (nbits w : Nat) : State :=
  s.readyToRun.placeWord (BitVec.ofNat 16 (w % 2 ^ nbits))

end Sys2Proof.Machine
end

