-- ==== Sys2Proof/Machine/Effects.lean ====
section
/-! DEFINITION. The spec's two tables about all instructions at once, in the terms statements use: which state an
instruction may write (10_state.md R15, 20_memory.md R37) and the pc after it (40_engine_cycle.md R75). -/

namespace Sys2Proof.Machine

/-- A piece of state that can change on its own. -/
inductive Part where
  | byte (a : Nat)
  | reg (r : Reg)
  | index
  | pc
  | stack
  | dt
  | st
  | row (r : Fin 32)
  | dirty
  | didJump
  | waiting
  | faulted
  | cfg
  | draws
  | host
deriving DecidableEq, Repr

/-- Two states agree on every piece of state but those listed; memory through the read of one byte. -/
structure State.SameExcept (w : List Part) (s t : State) : Prop where
  byte : ∀ a, Part.byte a ∉ w → t.readByte a = s.readByte a
  reg : ∀ r, Part.reg r ∉ w → t.reg r = s.reg r
  index : Part.index ∉ w → t.i = s.i
  pc : Part.pc ∉ w → t.pc = s.pc
  stack : Part.stack ∉ w → t.stack = s.stack
  dt : Part.dt ∉ w → t.dt = s.dt
  st : Part.st ∉ w → t.st = s.st
  row : ∀ r : Fin 32, Part.row r ∉ w → t.fb[r] = s.fb[r]
  dirty : Part.dirty ∉ w → t.dirty = s.dirty
  didJump : Part.didJump ∉ w → t.didJump = s.didJump
  waiting : Part.waiting ∉ w → t.waiting = s.waiting
  faulted : Part.faulted ∉ w → t.faulted = s.faulted
  cfg : Part.cfg ∉ w → t.cfg = s.cfg
  draws : Part.draws ∉ w → t.draws = s.draws
  host : Part.host ∉ w → t.host = s.host

/-- `n` bytes of memory from an address on. -/
def bytesFrom (a n : Nat) : List Part := (List.range n).map fun k => .byte (a + k)

/-- All 32 rows of the framebuffer. -/
def allRows : List Part := (List.finRange 32).map .row

/-- The registers V0..Vx. -/
def regsTo (x : Reg) : List Part := ((List.finRange 16).filter (· ≤ x)).map .reg

/-- What `execute` of an instruction may write in a state, errors included (R15, R37, R74, R121, R132). -/
def writesOf (s : State) : Instr → List Part
  | .cls => .dirty :: allRows
  | .ret => [.stack, .pc, .faulted]
  | .jp _ => [.pc, .didJump]
  | .jpV0 _ => [.pc, .didJump]
  | .call _ => [.stack, .pc, .didJump, .faulted]
  | .seImm _ _ => [.pc]
  | .sneImm _ _ => [.pc]
  | .seReg _ _ _ => [.pc]
  | .sneReg _ _ _ => [.pc]
  | .ldImm x _ => [.reg x]
  | .addImm x _ => [.reg x]
  | .ldReg x _ => [.reg x, .reg regVF]
  | .orReg x _ => [.reg x, .reg regVF]
  | .andReg x _ => [.reg x, .reg regVF]
  | .xorReg x _ => [.reg x, .reg regVF]
  | .addReg x _ => [.reg x, .reg regVF]
  | .subReg x _ => [.reg x, .reg regVF]
  | .shr x _ => [.reg x, .reg regVF]
  | .subn x _ => [.reg x, .reg regVF]
  | .shl x _ => [.reg x, .reg regVF]
  | .rnd x _ => [.reg x, .draws]
  | .drw _ _ _ => [.reg regVF, .dirty, .faulted] ++ allRows
  | .skp _ => [.pc, .faulted]
  | .sknp _ => [.pc, .faulted]
  | .ldVxDt x => [.reg x]
  | .ldVxK _ => [.waiting]
  | .ldDtVx _ => [.dt]
  | .ldStVx _ => [.st]
  | .ldI _ => [.index]
  | .addI _ => [.index, .faulted]
  | .ldF _ => [.index]
  | .ldB _ => .faulted :: bytesFrom s.i.toNat 3
  | .storeRegs x =>
    .faulted :: bytesFrom s.i.toNat (blockLen x) ++ if s.cfg.storeIncrementsI then [.index] else []
  | .loadRegs x => .faulted :: regsTo x
  | .nop0 _ => []
  | .nop8 _ _ _ => []
  | .nopE _ _ => []
  | .nopF _ _ => []

/-- The pc two or four past an instruction, by whether its skip is taken (R75). -/
def skipTarget (p : Word) (taken : Bool) : Word := if taken then p + 4 else p + 2

/-- The pc after an instruction that raises no error, executed in state `s`, the advance included (R75). -/
def pcAfter (s : State) : Instr → Word
  | .jp nnn => addrWord nnn
  | .call nnn => addrWord nnn
  | .jpV0 nnn => s.offsetTarget nnn
  | .ret => s.stack.headD 0 + 2
  | .seImm x nn => skipTarget s.pc (s.reg x == nn)
  | .sneImm x nn => skipTarget s.pc (s.reg x != nn)
  | .seReg x y _ => skipTarget s.pc (s.reg x == s.reg y)
  | .sneReg x y _ => skipTarget s.pc (s.reg x != s.reg y)
  | .skp x => skipTarget s.pc ((keyOf (s.reg x)).any s.keyHeld)
  | .sknp x => skipTarget s.pc (!(keyOf (s.reg x)).any s.keyHeld)
  | .ldVxK _ => s.pc
  | .cls | .nop0 _ | .ldImm _ _ | .addImm _ _ | .ldReg _ _ | .orReg _ _ | .andReg _ _ | .xorReg _ _
  | .addReg _ _ | .subReg _ _ | .shr _ _ | .subn _ _ | .shl _ _ | .nop8 _ _ _ | .ldI _ | .rnd _ _
  | .drw _ _ _ | .nopE _ _ | .ldVxDt _ | .ldDtVx _ | .ldStVx _ | .addI _ | .ldF _ | .ldB _
  | .storeRegs _ | .loadRegs _ | .nopF _ _ => s.pc + 2

/-- The pixel a sprite puts at (column c, row q) when Dxyn draws it from state `s`: pixel k of row r, bit 7 - k of
the byte at I + r, lands at column cx + k and row cy + r, past the edge by the two modes (R113 to R115). -/
def State.spritePixel (s : State) (x y : Reg) (n : Nibble) (c : Fin 64) (q : Fin 32) : Bool :=
  let cx := (s.reg x).toNat % 64
  let cy := (s.reg y).toNat % 32
  let r :=
    match s.cfg.drawRowMode with
    | .wrap => (q.val + 32 - cy) % 32
    | .clip => if cy ≤ q.val then q.val - cy else 32
  let k :=
    match s.cfg.drawColMode with
    | .wrap => (c.val + 64 - cx) % 64
    | .clip => if cx ≤ c.val then c.val - cx else 64
  decide (r < n.toNat) && decide (k < 8) && (s.readByte (s.i.toNat + r)).getLsbD (7 - k)

end Sys2Proof.Machine
end

