-- ==== Sys2Proof/Safety.lean ====
section
/-! DEFINITION. What holds of every state a run reaches, and what a safe run is. -/

namespace Sys2Proof.Machine

/-- The invariant of the core: the configuration keeps the spec's limits (R21, R6); memory is in canonical form, so
every listed address is one of the 4096 (R20); the stack is no deeper than MAX_STACK_DEPTH, and every return address
is that of a CALL that was fetched, at most 0xFFE (R19); the pc is at most 0x10FE (R17), and at a word that was fetched
while a key is awaited (R78); a faulted machine is in no call (R133); did_jump is false, for a move ends at an instruction
boundary (R26). -/
abbrev State.Inv (s : State) : Prop :=
  s.cfg.wf = true ∧ s.memWf ∧ s.stack.length ≤ s.cfg.maxStackDepth ∧ (∀ r ∈ s.stack, r.toNat ≤ 0xFFE) ∧
    s.pc.toNat ≤ 0x10FE ∧ (s.waiting ≠ none → s.pc.toNat ≤ 0xFFE) ∧ (s.faulted ≠ none → s.host.left = none) ∧
    s.didJump = false

/-- The core is about to run a cycle: inside a `step` call, with an instruction left, `n` after it, no error and no key
wait (R71). -/
abbrev State.running (s : State) (n : Nat) : Prop :=
  s.host.left = some (n + 1) ∧ s.faulted = none ∧ s.waiting = none

/-- A run of `k` moves is safe when it met no error and made no call that is refused: "no step returned Err" (R166). -/
def State.safeFor (s : State) (k : Nat) : Prop :=
  ∃ t : State, Host.Core.run Sys2Proof.core k s = .next t ∧ t.faulted = none

end Sys2Proof.Machine
end

