-- ==== Sys2Proof/Certificates/Slice0/Obligations.lean ====
section
/-! DEFINITION. The statements for the provers. Each says which rules of spec/ it formalises. A statement that rests on
a point the spec marks as its own decision (D1 to D37) names the decision. An `encodedAs` clause rests on the spec's D1
(the bit patterns are general knowledge, log 7) for every instruction but 6xnn, 8xy4 and 8xy5, whose patterns the source
shows. Every statement about a state holds for every configuration, since the configuration is a field of the state. -/

open Sys2Proof Sys2Proof.Machine

/-! ## Encoding (30_encoding.md, 20_memory.md R34) -/

/-- A few words written out from their encodings, of every family (R57 to R63). -/
def Obligations.SampleWordsDecode : Prop :=
  decode 0x6005#16 = .ldImm 0 0x05#8 ∧ decode 0x8014#16 = .addReg 0 1 ∧ decode 0x8FE5#16 = .subReg 15 14 ∧
    decode 0x00E0#16 = .cls ∧ decode 0x00EE#16 = .ret ∧ decode 0x220E#16 = .call 0x20E#12 ∧
    decode 0x3200#16 = .seImm 2 0x00#8 ∧ decode 0x5011#16 = .seReg 0 1 0x1#4 ∧ decode 0xB302#16 = .jpV0 0x302#12 ∧
    decode 0xC30F#16 = .rnd 3 0x0F#8 ∧ decode 0xD335#16 = .drw 3 3 0x5#4 ∧ decode 0xE59E#16 = .skp 5 ∧
    decode 0xFA15#16 = .ldDtVx 10 ∧ decode 0xF155#16 = .storeRegs 1 ∧ decode 0xA300#16 = .ldI 0x300#12 ∧
    decode 0x01E0#16 = .nop0 0x1E0#12 ∧ decode 0x8008#16 = .nop8 0 0 0x8#4 ∧ decode 0xF0FF#16 = .nopF 0 0xFF#8

/-- R34: the word fetched at an address has the byte there as its high byte and the next byte as its low byte. So does
the decoder of bytes, which leaves the rest over and refuses fewer than two bytes by name. -/
def Obligations.BytesDecodeBigEndian : Prop :=
  (∀ s : State, s.fetchWord.toNat = (s.readByte s.pc.toNat).toNat * 256 + (s.readByte (s.pc.toNat + 1)).toNat) ∧
  (∀ (hi lo : Byte) (rest : List Byte), ∃ w : Word,
      w.toNat = hi.toNat * 256 + lo.toNat ∧ decodeBytes (hi :: lo :: rest) = .ok (decode w, rest)) ∧
    (∀ bytes : List Byte, bytes.length < 2 → decodeBytes bytes = .error .fewerThanTwoBytes)

/-- Every well-formed instruction comes back from its word, every operand at every value. -/
def Obligations.DecodeEncodeIsIdentity : Prop :=
  ∀ i : Instr, i.wf = true → decode (encode i) = i

/-- R55, R63 (the patterns are the spec's D1, the digit-0 and the 5xyn and 9xyn readings its D11 and D12): every word
decodes to exactly one instruction, that of the first of the 38 rows it matches. That encoding the decoded instruction
gives the word back and that no other term has the word is no rule of the spec: it rests on the MODEL'S CHOICE to keep, in
the four NOP constructors and in 5xyn and 9xyn, the bits that no meaning reads (log 8). -/
def Obligations.EveryWordIsExactlyOneInstruction : Prop :=
  ∀ w : Word, (decode w).wf = true ∧ firstRow w = some (decode w).rowNumber ∧ encode (decode w) = w ∧
    ∀ i : Instr, i.wf = true → encode i = w → i = decode w

/-! ## Reset (70_reset_and_hazards.md R153) -/

/-- R33, R153: every piece of state at creation, for every configuration. Memory outside the font 0 is the spec's D21,
`dirty` false D22, `faulted` none D16. `State.reset` is the creation with the default configuration, which is the
model's choice (logs 1 to 5). -/
def Obligations.ResetLeavesTheStateOfCreation : Prop :=
  (∀ cfg : Config,
      (∀ r, (State.create cfg).reg r = 0) ∧ (State.create cfg).i = 0 ∧ (State.create cfg).pc = 0x200 ∧
      (State.create cfg).stack = [] ∧ (State.create cfg).dt = 0 ∧ (State.create cfg).st = 0 ∧
      (∀ q : Fin 32, (State.create cfg).fb[q] = 0) ∧ (State.create cfg).dirty = false ∧
      (State.create cfg).didJump = false ∧ (State.create cfg).waiting = none ∧ (State.create cfg).faulted = none ∧
      (State.create cfg).cfg = cfg ∧
      (∀ k : Fin 80, (State.create cfg).readByte (cfg.fontBase.toNat + k) = cfg.fontData[k]) ∧
      (∀ a, a < cfg.fontBase.toNat ∨ cfg.fontBase.toNat + 80 ≤ a → (State.create cfg).readByte a = 0)) ∧
    State.reset = State.create defaultConfig

/-- The invariant holds at creation, for every configuration within the spec's limits. -/
def Obligations.CreationMeetsTheInvariant : Prop :=
  (∀ cfg : Config, cfg.wf = true → (State.create cfg).Inv) ∧ State.reset.Inv

/-! ## Every move of the core -/

/-- Every move keeps the invariant: the limits of the configuration, the canonical form and the 4096 addresses of
memory, the stack depth and what a return address can be, where the pc can be (R17, R19, R20), and did_jump false, as R26
has it at every instruction boundary (log 13). -/
def Obligations.StepKeepsTheInvariant : Prop :=
  ∀ s t : State, s.Inv → step s = .next t → t.Inv

/-- R71 (its lines marked D are the spec's D16, D19 and D34): the moves of a `step` call add up to the algorithm the spec
gives for it, in at most ipf + 2 moves. The cut of a call into moves is the model's choice (log 10). -/
def Obligations.MovesComputeTheStepCall : Prop :=
  ∀ (s : State) (ipf : BitVec 32) (input : Input) (rest : List Request),
    s.host.left = none → s.faulted = none → s.host.requests = .step ipf input :: rest →
    ∃ k, k ≤ ipf.toNat + 2 ∧
      Host.Core.run Sys2Proof.core k s = stepCall ipf input (s.setHost { s.host with requests := rest })

/-- R155: no move and no instruction changes the configuration; `create` fixes it. -/
def Obligations.ConfigurationNeverChanges : Prop :=
  (∀ s t : State, step s = .next t → t.cfg = s.cfg) ∧
    (∀ (i : Instr) (s t : State), exec i s = .next t → t.cfg = s.cfg) ∧
    (∀ cfg : Config, (State.create cfg).cfg = cfg)

/-- R24, R112, R113: only a cycle that runs 00E0 or Dxyn changes the framebuffer. -/
def Obligations.OnlyClearAndDrawChangeTheFramebuffer : Prop :=
  ∀ s t : State, step s = .next t → t.fb ≠ s.fb →
    ∃ n, s.running n ∧ s.pc.toNat ≤ 0xFFE ∧
      (decode s.fetchWord = .cls ∨ ∃ x y k, decode s.fetchWord = .drw x y k)

/-- R19, R86: only a cycle that runs 2nnn or 00EE changes the call stack (separate storage is the spec's D24). -/
def Obligations.OnlyCallAndReturnChangeTheStack : Prop :=
  ∀ s t : State, step s = .next t → t.stack ≠ s.stack →
    ∃ n, s.running n ∧ s.pc.toNat ≤ 0xFFE ∧ (decode s.fetchWord = .ret ∨ ∃ nnn, decode s.fetchWord = .call nnn)

/-- R83, R152: while a `step` call runs, the snapshot stays as it was given, and no request of the host is taken. -/
def Obligations.SnapshotIsFixedDuringAStepCall : Prop :=
  ∀ s t : State, s.host.left ≠ none → step s = .next t →
    t.host.input = s.host.input ∧ t.host.requests = s.host.requests ∧ t.host.started = s.host.started

/-- R81, R157: a move answers a fault only for a machine that is faulted already, with the error recorded, and refuses
only a `load_program` made after a `step` (the spec's D16 and D32). -/
def Obligations.StepStopsOnlyWhenFaultedOrLoadedLate : Prop :=
  (∀ (s : State) (e : Fault), step s = .fault e → s.faulted = some e) ∧
    (∀ (s : State) (r : Refusal), step s = .refused r →
      r = .loadAfterStep ∧ s.host.left = none ∧ s.host.started = true ∧
        ∃ bytes rest, s.host.requests = .loadProgram bytes :: rest)

/-! ## The cycle (40_engine_cycle.md R72 to R75) -/

/-- R72: when the bytes at the pc decode to an instruction, the step is `exec` of it on the state with did_jump cleared,
followed by the advance and one instruction fewer to run. did_jump is false after it (R26, log 13). -/
def Obligations.StepRunsTheDecodedInstruction : Prop :=
  ∀ (s : State) (n : Nat) (i : Instr), s.running n → s.pc.toNat ≤ 0xFFE →
    decodeBytes [s.readByte s.pc.toNat, s.readByte (s.pc.toNat + 1)] = .ok (i, []) →
    (step s =
      match exec i (s.setDidJump false) with
      | .next t => .next (t.advance.afterCycle n)
      | .fault e => .fault e
      | .refused r => .refused r) ∧
    (∀ t, exec i (s.setDidJump false) = .next t → t.faulted = none →
      ∃ u, step s = .next u ∧ u.host = { t.host with left := some n } ∧
        u.pc = (if t.waiting = none ∧ t.didJump = false then t.pc + 2 else t.pc) ∧
        u.didJump = false ∧ State.SameExcept [.pc, .didJump, .host] t u)

/-- R75: the pc after each instruction, the advance included; an instruction that raises leaves it at itself. -/
def Obligations.PcAfterEachInstruction : Prop :=
  ∀ (i : Instr) (s t : State), s.faulted = none → s.waiting = none → s.didJump = false → exec i s = .next t →
    (t.faulted = none → t.advance.pc = pcAfter s i) ∧ (t.faulted ≠ none → t.advance.pc = s.pc)

/-- R73 (the spec's D7): a fetch that would read above 0xFFF is an error, and nothing is read or written. -/
def Obligations.FetchOutOfRangeIsAnError : Prop :=
  ∀ (s : State) (n : Nat), s.running n → 0xFFE < s.pc.toNat →
    ∃ t, step s = .next t ∧
      t.faulted = some (.memOutOfBounds (if s.pc.toNat = 0xFFF then 0x1000 else s.pc.toNat)) ∧
      t.host.result = some (.err (.memOutOfBounds (if s.pc.toNat = 0xFFF then 0x1000 else s.pc.toNat))) ∧
      t.host.left = none ∧ t.didJump = false ∧ State.SameExcept [.faulted, .didJump, .host] s t

/-! ## The `step` call and the host's other calls -/

/-- R71, R76, R77: a call whose instructions are used up, or that has come to a key wait, ends with one tick of both
timers and Ok. The wait is not resolved in it (R79, the spec's D34). -/
def Obligations.TickEndsTheStepCall : Prop :=
  ∀ s : State, s.faulted = none →
    (s.host.left = some 0 ∨ ∃ n, s.host.left = some (n + 1) ∧ s.waiting ≠ none) →
    ∃ t, step s = .next t ∧ t.dt.toNat = s.dt.toNat - 1 ∧ t.st.toNat = s.st.toNat - 1 ∧
      t.host = { s.host with left := none, result := some .ok } ∧ State.SameExcept [.dt, .st, .host] s t

/-- R78, R80: a `step` call that reports no released key leaves a key wait as it is, but for the tick. -/
def Obligations.KeyWaitLastsWithoutARelease : Prop :=
  ∀ (s : State) (x : Reg) (ipf : BitVec 32) (input : Input) (rest : List Request),
    s.host.left = none → s.faulted = none → s.waiting = some x →
    s.host.requests = .step ipf input :: rest → input.released = none →
    ∃ t, step s = .next t ∧ t.dt.toNat = s.dt.toNat - 1 ∧ t.st.toNat = s.st.toNat - 1 ∧
      t.host.left = none ∧ t.host.requests = rest ∧ t.host.result = some .ok ∧
      State.SameExcept [.dt, .st, .host] s t

/-- R78 (the spec's D19): a released key is written to the target register, the wait ends, the pc moves past the Fx0A,
and the call ends with the tick and no instruction run. -/
def Obligations.KeyReleaseEndsTheWait : Prop :=
  ∀ (s : State) (x : Reg) (k : Key) (ipf : BitVec 32) (input : Input) (rest : List Request),
    s.host.left = none → s.faulted = none → s.waiting = some x →
    s.host.requests = .step ipf input :: rest → input.released = some k →
    ∃ t, step s = .next t ∧ (t.reg x).toNat = k.val ∧ t.waiting = none ∧ t.pc = s.pc + 2 ∧
      t.dt.toNat = s.dt.toNat - 1 ∧ t.st.toNat = s.st.toNat - 1 ∧
      t.host.left = none ∧ t.host.requests = rest ∧ t.host.result = some .ok ∧
      State.SameExcept [.reg x, .waiting, .pc, .dt, .st, .host] s t

/-- R84: `step(0)` runs no instruction and ticks the timers. -/
def Obligations.StepZeroOnlyTicks : Prop :=
  ∀ (s : State) (input : Input) (rest : List Request),
    s.host.left = none → s.faulted = none → s.waiting = none → s.host.requests = .step 0 input :: rest →
    ∃ t : State, Host.Core.run Sys2Proof.core 2 s = .next t ∧ t.dt.toNat = s.dt.toNat - 1 ∧
      t.st.toNat = s.st.toNat - 1 ∧ t.host.requests = rest ∧ t.host.result = some .ok ∧
      State.SameExcept [.dt, .st, .host] s t

/-- R81 (the spec's D16): a `step` call of a faulted machine returns the same error. -/
def Obligations.FaultedStepCallReturnsTheSameError : Prop :=
  ∀ (s : State) (e : Fault) (ipf : BitVec 32) (input : Input) (rest : List Request),
    s.host.left = none → s.faulted = some e → s.host.requests = .step ipf input :: rest → step s = .fault e

/-- R133, R134 (the spec's D15 and D16): an instruction that raises leaves everything as it was but `faulted`, the call
returns the error, and the timers do not tick. -/
def Obligations.ErrorEndsTheCallWithoutATick : Prop :=
  ∀ (s u : State) (n : Nat) (e : Fault), s.running n → s.pc.toNat ≤ 0xFFE →
    exec (decode s.fetchWord) (s.setDidJump false) = .next u → u.faulted = some e →
    ∃ t, step s = .next t ∧ t.faulted = some e ∧
      t.host = { s.host with left := none, result := some (.err e) } ∧ t.didJump = false ∧
      State.SameExcept [.faulted, .didJump, .host] s t

/-- R157 (refused after the first `step` by the spec's D32): a program that fits is written from 0x200 on and nothing
else is; one that does not fit writes nothing. -/
def Obligations.LoadProgramWritesTheProgram : Prop :=
  ∀ (s : State) (bytes : List Byte) (rest : List Request),
    s.host.left = none → s.host.requests = .loadProgram bytes :: rest →
    (s.host.started = true → step s = .refused .loadAfterStep) ∧
    (s.host.started = false → bytes.length ≤ 3584 →
      ∃ t, step s = .next t ∧ (∀ k (h : k < bytes.length), t.readByte (0x200 + k) = bytes[k]) ∧
        t.host = { s.host with requests := rest, left := none, result := some .ok } ∧
        State.SameExcept (.host :: bytesFrom 0x200 bytes.length) s t) ∧
    (s.host.started = false → 3584 < bytes.length →
      ∃ t, step s = .next t ∧
        t.host = { s.host with requests := rest, left := none, result := some (.err (.programTooLarge bytes.length)) } ∧
        State.SameExcept [.host] s t)

/-- R147 (the spec's D22): the host clears `dirty` between calls and writes nothing else. -/
def Obligations.HostClearsDirtyAlone : Prop :=
  ∀ (s : State) (rest : List Request), s.host.left = none → s.host.requests = .clearDirty :: rest →
    ∃ t, step s = .next t ∧ t.dirty = false ∧ t.host = { s.host with requests := rest } ∧
      State.SameExcept [.dirty, .host] s t

/-! ## All instructions at once -/

/-- R67, R131: no instruction is refused and none stops the machine by itself: each has a next state in every state. -/
def Obligations.EveryInstructionHasANextState : Prop :=
  ∀ (i : Instr) (s : State), ∃ t, exec i s = .next t

/-- R15, R37: an instruction writes only the state listed for it. -/
def Obligations.InstructionsWriteOnlyWhatIsListed : Prop :=
  ∀ (i : Instr) (s t : State), exec i s = .next t → State.SameExcept (writesOf s i) s t

/-- R82 (the spec's D15): an instruction that raises has written nothing but the error. -/
def Obligations.RaisingWritesNothingElse : Prop :=
  ∀ (i : Instr) (s t : State) (e : Fault), s.faulted = none → exec i s = .next t → t.faulted = some e →
    t = { s with faulted := some e }

/-- R132, R135: each error kind an instruction can raise has one cause, with the value it records (the spec's D14, D17
and D18 among them; `>=` and not `=` for the stack depth is the model's reading, log 4). -/
def Obligations.EachErrorHasItsOneCause : Prop :=
  ∀ (i : Instr) (s t : State) (e : Fault), s.faulted = none → exec i s = .next t → t.faulted = some e →
    match e with
    | .stackUnderflow => i = .ret ∧ s.stack = []
    | .stackOverflow => (∃ nnn, i = .call nnn) ∧ s.cfg.maxStackDepth ≤ s.stack.length
    | .memOutOfBounds a =>
      a = max s.i.toNat 0x1000 ∧
        ((∃ x y n, i = .drw x y n ∧ n ≠ 0 ∧ 0x1000 < s.i.toNat + n.toNat) ∨
          (∃ x, i = .ldB x ∧ 0x1000 < s.i.toNat + 3) ∨
          (∃ x : Reg, (i = .storeRegs x ∨ i = .loadRegs x) ∧ 0x1000 < s.i.toNat + x.val + 1))
    | .keyOutOfRange k => ∃ x, (i = .skp x ∨ i = .sknp x) ∧ k = (s.reg x).toNat ∧ 15 < k
    | .indexOverflow k =>
      ∃ x, i = .addI x ∧ k = s.i.toNat + (s.reg x).toNat ∧ 0xFFFF < k ∧ s.cfg.indexOverflow = .fault
    | .programTooLarge _ => False

/-! ## Unrecognized words (30_encoding.md R62) -/

/-- R62: every unrecognized word of the four digits changes nothing, and the cycle then adds 2 to the pc. -/
def Obligations.UnrecognizedWordsDoNothing : Prop :=
  (∀ nnn : Addr, nnn.toNat ≠ 0x0E0 → nnn.toNat ≠ 0x0EE →
      (Instr.nop0 nnn).encodedAs nnn.toNat ∧ ∀ s, exec (.nop0 nnn) s = .next s) ∧
    (∀ (x y : Reg) (n : Nibble), n.toNat ∈ [0x8, 0x9, 0xA, 0xB, 0xC, 0xD, 0xF] →
      (Instr.nop8 x y n).encodedAs (0x8000 + x.val * 256 + y.val * 16 + n.toNat) ∧
        ∀ s, exec (.nop8 x y n) s = .next s) ∧
    (∀ (x : Reg) (nn : Byte), nn.toNat ∉ [0x9E, 0xA1] →
      (Instr.nopE x nn).encodedAs (0xE000 + x.val * 256 + nn.toNat) ∧ ∀ s, exec (.nopE x nn) s = .next s) ∧
    (∀ (x : Reg) (nn : Byte), nn.toNat ∉ [0x07, 0x0A, 0x15, 0x18, 0x1E, 0x29, 0x33, 0x55, 0x65] →
      (Instr.nopF x nn).encodedAs (0xF000 + x.val * 256 + nn.toNat) ∧ ∀ s, exec (.nopF x nn) s = .next s) ∧
    (∀ s : State, s.faulted = none → s.waiting = none → s.didJump = false → s.advance.pc = s.pc + 2)

/-! ## Control transfer (41_control_flow.md) -/

/-- R88: the pc takes the popped address, without did_jump; an empty stack is an error and nothing changes. -/
def Obligations.ReturnPopsThePc : Prop :=
  Instr.ret.encodedAs 0x00EE ∧
    (∀ (s : State) (top : Word) (rest : List Word), s.stack = top :: rest →
      ∃ t, exec .ret s = .next t ∧ t.pc = top ∧ t.stack = rest ∧ State.SameExcept [.pc, .stack] s t) ∧
    (∀ s : State, s.stack = [] →
      ∃ t, exec .ret s = .next t ∧ t.faulted = some .stackUnderflow ∧ State.SameExcept [.faulted] s t)

/-- R89: the pc takes the address, and did_jump is set. -/
def Obligations.JumpSetsThePc : Prop :=
  ∀ nnn : Addr, (Instr.jp nnn).encodedAs (0x1000 + nnn.toNat) ∧
    ∀ s : State, ∃ t, exec (.jp nnn) s = .next t ∧ t.pc.toNat = nnn.toNat ∧ t.didJump = true ∧
      State.SameExcept [.pc, .didJump] s t

/-- R90 (pushing the CALL's own address is the spec's D10, the bound a parameter by D4): the pc is pushed and takes the
address, did_jump is set; at the maximum depth it is an error and nothing changes. -/
def Obligations.CallPushesThePc : Prop :=
  ∀ nnn : Addr, (Instr.call nnn).encodedAs (0x2000 + nnn.toNat) ∧
    (∀ s : State, s.stack.length < s.cfg.maxStackDepth →
      ∃ t, exec (.call nnn) s = .next t ∧ t.stack = s.pc :: s.stack ∧ t.pc.toNat = nnn.toNat ∧ t.didJump = true ∧
        State.SameExcept [.stack, .pc, .didJump] s t) ∧
    (∀ s : State, s.stack.length = s.cfg.maxStackDepth →
      ∃ t, exec (.call nnn) s = .next t ∧ t.faulted = some .stackOverflow ∧ State.SameExcept [.faulted] s t)

/-- R91, R92: the pc moves 2 more when V[x] equals, or does not equal, the byte. -/
def Obligations.ImmediateSkips : Prop :=
  ∀ (x : Reg) (nn : Byte),
    (Instr.seImm x nn).encodedAs (0x3000 + x.val * 256 + nn.toNat) ∧
    (Instr.sneImm x nn).encodedAs (0x4000 + x.val * 256 + nn.toNat) ∧
    ∀ s : State,
      (∃ t, exec (.seImm x nn) s = .next t ∧ t.pc = (if s.reg x = nn then s.pc + 2 else s.pc) ∧
        State.SameExcept [.pc] s t) ∧
      (∃ t, exec (.sneImm x nn) s = .next t ∧ t.pc = (if s.reg x = nn then s.pc else s.pc + 2) ∧
        State.SameExcept [.pc] s t)

/-- R93, R94 (that n is ignored is the spec's D12): the pc moves 2 more when V[x] equals, or does not equal, V[y]. -/
def Obligations.RegisterSkips : Prop :=
  ∀ (x y : Reg) (n : Nibble),
    (Instr.seReg x y n).encodedAs (0x5000 + x.val * 256 + y.val * 16 + n.toNat) ∧
    (Instr.sneReg x y n).encodedAs (0x9000 + x.val * 256 + y.val * 16 + n.toNat) ∧
    ∀ s : State,
      (∃ t, exec (.seReg x y n) s = .next t ∧ t.pc = (if s.reg x = s.reg y then s.pc + 2 else s.pc) ∧
        State.SameExcept [.pc] s t) ∧
      (∃ t, exec (.sneReg x y n) s = .next t ∧ t.pc = (if s.reg x = s.reg y then s.pc else s.pc + 2) ∧
        State.SameExcept [.pc] s t)

/-- R95 (did_jump for Bnnn is the spec's D9): the pc takes nnn plus V0, or plus the register of nnn's top nibble under
JUMP_USES_VX. -/
def Obligations.JumpAddsTheOffsetRegister : Prop :=
  ∀ nnn : Addr, (Instr.jpV0 nnn).encodedAs (0xB000 + nnn.toNat) ∧
    (∀ s : State, s.cfg.jumpUsesVx = false →
      ∃ t, exec (.jpV0 nnn) s = .next t ∧ t.pc.toNat = nnn.toNat + (s.reg 0).toNat ∧ t.didJump = true ∧
        State.SameExcept [.pc, .didJump] s t) ∧
    (∀ (s : State) (r : Reg), s.cfg.jumpUsesVx = true → r.val = nnn.toNat / 256 →
      ∃ t, exec (.jpV0 nnn) s = .next t ∧ t.pc.toNat = nnn.toNat + (s.reg r).toNat ∧ t.didJump = true ∧
        State.SameExcept [.pc, .didJump] s t)

/-! ## Loads, arithmetic and random (42_alu.md) -/

/-- R98: the register takes the byte. -/
def Obligations.LoadImmediateTakesTheByte : Prop :=
  ∀ (x : Reg) (nn : Byte), (Instr.ldImm x nn).encodedAs (0x6000 + x.val * 256 + nn.toNat) ∧
    ∀ s : State, ∃ t, exec (.ldImm x nn) s = .next t ∧ t.reg x = nn ∧ State.SameExcept [.reg x] s t

/-- R99: the register takes the sum modulo 256, without a flag. -/
def Obligations.AddImmediateHasNoFlag : Prop :=
  ∀ (x : Reg) (nn : Byte), (Instr.addImm x nn).encodedAs (0x7000 + x.val * 256 + nn.toNat) ∧
    ∀ s : State, ∃ t, exec (.addImm x nn) s = .next t ∧ (t.reg x).toNat = ((s.reg x).toNat + nn.toNat) % 256 ∧
      State.SameExcept [.reg x] s t

/-- R97, R100 to R103: copy, OR, AND and XOR write V[x] and then clear VF, so that x = F leaves 0. -/
def Obligations.LogicGroupClearsVF : Prop :=
  ∀ x y : Reg,
    (Instr.ldReg x y).encodedAs (0x8000 + x.val * 256 + y.val * 16) ∧
    (Instr.orReg x y).encodedAs (0x8001 + x.val * 256 + y.val * 16) ∧
    (Instr.andReg x y).encodedAs (0x8002 + x.val * 256 + y.val * 16) ∧
    (Instr.xorReg x y).encodedAs (0x8003 + x.val * 256 + y.val * 16) ∧
    ∀ s : State,
      (∃ t, exec (.ldReg x y) s = .next t ∧ (x ≠ 15 → t.reg x = s.reg y) ∧ t.reg 15 = 0 ∧
        State.SameExcept [.reg x, .reg 15] s t) ∧
      (∃ t, exec (.orReg x y) s = .next t ∧ (x ≠ 15 → t.reg x = s.reg x ||| s.reg y) ∧ t.reg 15 = 0 ∧
        State.SameExcept [.reg x, .reg 15] s t) ∧
      (∃ t, exec (.andReg x y) s = .next t ∧ (x ≠ 15 → t.reg x = s.reg x &&& s.reg y) ∧ t.reg 15 = 0 ∧
        State.SameExcept [.reg x, .reg 15] s t) ∧
      (∃ t, exec (.xorReg x y) s = .next t ∧ (x ≠ 15 → t.reg x = s.reg x ^^^ s.reg y) ∧ t.reg 15 = 0 ∧
        State.SameExcept [.reg x, .reg 15] s t)

/-- R97, R104: the sum modulo 256 and then the carry in VF. -/
def Obligations.AddSetsTheCarry : Prop :=
  ∀ x y : Reg, (Instr.addReg x y).encodedAs (0x8004 + x.val * 256 + y.val * 16) ∧
    ∀ s : State, ∃ t, exec (.addReg x y) s = .next t ∧
      (x ≠ 15 → (t.reg x).toNat = ((s.reg x).toNat + (s.reg y).toNat) % 256) ∧
      t.reg 15 = (if (s.reg x).toNat + (s.reg y).toNat > 255 then 1 else 0) ∧
      State.SameExcept [.reg x, .reg 15] s t

/-- R97, R105: V[x] minus V[y] modulo 256 and then the no-borrow flag in VF. -/
def Obligations.SubtractSetsNoBorrow : Prop :=
  ∀ x y : Reg, (Instr.subReg x y).encodedAs (0x8005 + x.val * 256 + y.val * 16) ∧
    ∀ s : State, ∃ t, exec (.subReg x y) s = .next t ∧
      (x ≠ 15 → (t.reg x).toNat = ((s.reg x).toNat + 256 - (s.reg y).toNat) % 256) ∧
      t.reg 15 = (if (s.reg y).toNat ≤ (s.reg x).toNat then 1 else 0) ∧
      State.SameExcept [.reg x, .reg 15] s t

/-- R97, R107: V[y] minus V[x] modulo 256 into V[x] and then the no-borrow flag in VF. -/
def Obligations.ReverseSubtractSetsNoBorrow : Prop :=
  ∀ x y : Reg, (Instr.subn x y).encodedAs (0x8007 + x.val * 256 + y.val * 16) ∧
    ∀ s : State, ∃ t, exec (.subn x y) s = .next t ∧
      (x ≠ 15 → (t.reg x).toNat = ((s.reg y).toNat + 256 - (s.reg x).toNat) % 256) ∧
      t.reg 15 = (if (s.reg x).toNat ≤ (s.reg y).toNat then 1 else 0) ∧
      State.SameExcept [.reg x, .reg 15] s t

/-- R97, R106, R108: a shift by 1 of V[x], or of V[y] under SHIFT_USES_VY, and then the bit shifted out in VF. -/
def Obligations.ShiftsSetTheBitShiftedOut : Prop :=
  ∀ x y : Reg,
    (Instr.shr x y).encodedAs (0x8006 + x.val * 256 + y.val * 16) ∧
    (Instr.shl x y).encodedAs (0x800E + x.val * 256 + y.val * 16) ∧
    ∀ (s : State) (src : Byte), src = (if s.cfg.shiftUsesVy = true then s.reg y else s.reg x) →
      (∃ t, exec (.shr x y) s = .next t ∧ (x ≠ 15 → (t.reg x).toNat = src.toNat / 2) ∧
        (t.reg 15).toNat = src.toNat % 2 ∧ State.SameExcept [.reg x, .reg 15] s t) ∧
      (∃ t, exec (.shl x y) s = .next t ∧ (x ≠ 15 → (t.reg x).toNat = src.toNat * 2 % 256) ∧
        (t.reg 15).toNat = src.toNat / 128 ∧ State.SameExcept [.reg x, .reg 15] s t)

/-- R109, R150 (one draw even for the mask 0 is the spec's D31; the counter is the model's, log 9): one fresh byte of
the random source under the mask. The byte is a free value, so this holds whatever it is. -/
def Obligations.RandomIsOneMaskedByte : Prop :=
  ∀ (x : Reg) (nn : Byte), (Instr.rnd x nn).encodedAs (0xC000 + x.val * 256 + nn.toNat) ∧
    ∀ s : State, ∃ t, exec (.rnd x nn) s = .next t ∧ t.reg x = Config.randomByte s.draws &&& nn ∧
      t.draws = s.draws + 1 ∧ State.SameExcept [.reg x, .draws] s t

/-! ## Display (43_display.md) -/

/-- R112 (`dirty` is the spec's D22): every row 0 and `dirty` set. -/
def Obligations.ClearScreenClearsEveryRow : Prop :=
  Instr.cls.encodedAs 0x00E0 ∧
    ∀ s : State, ∃ t, exec .cls s = .next t ∧ (∀ q : Fin 32, t.fb[q] = 0) ∧ t.dirty = true ∧
      State.SameExcept (.dirty :: allRows) s t

/-- R114 (columns past 63 by DRAW_COL_MODE, the spec's D6): pixel k of the byte, bit 7 - k, lands at column cx + k;
past column 63 it is dropped under Clip and wraps under Wrap. -/
def Obligations.RowMaskPlacesThePixels : Prop :=
  ∀ (b : Byte) (cx : Nat) (c : Fin 64), cx < 64 →
    ((rowMask .clip b cx).getLsbD (63 - c) =
      (decide (cx ≤ c.val ∧ c.val - cx < 8) && b.getLsbD (7 - (c.val - cx)))) ∧
    ((rowMask .wrap b cx).getLsbD (63 - c) =
      (decide ((c.val + 64 - cx) % 64 < 8) && b.getLsbD (7 - (c.val + 64 - cx) % 64)))

/-- R113, R115, R116 (the spec's D5, D6, D13, D14): a draw whose bytes are in memory toggles exactly the pixels of the
sprite, sets VF to 1 iff some pixel went from on to off, and sets `dirty`. -/
def Obligations.DrawTogglesTheSpritePixels : Prop :=
  ∀ (x y : Reg) (n : Nibble), (Instr.drw x y n).encodedAs (0xD000 + x.val * 256 + y.val * 16 + n.toNat) ∧
    ∀ s : State, n = 0 ∨ s.i.toNat + n.toNat ≤ 0x1000 →
      ∃ t, exec (.drw x y n) s = .next t ∧
        (∀ c q, t.pixel c q = (s.pixel c q ^^ s.spritePixel x y n c q)) ∧
        (t.reg 15 = 1 ∨ t.reg 15 = 0) ∧
        (t.reg 15 = 1 ↔ ∃ c q, s.pixel c q = true ∧ t.pixel c q = false) ∧ t.dirty = true ∧
        State.SameExcept ([.reg 15, .dirty] ++ allRows) s t

/-- R113 (clipped rows are checked too, the spec's D14): a draw that would read above 0xFFF is an error with the first
such address, and nothing changes. -/
def Obligations.DrawOutOfRangeIsAnError : Prop :=
  ∀ (x y : Reg) (n : Nibble) (s : State), n ≠ 0 → 0x1000 < s.i.toNat + n.toNat →
    ∃ t, exec (.drw x y n) s = .next t ∧ t.faulted = some (.memOutOfBounds (max s.i.toNat 0x1000)) ∧
      State.SameExcept [.faulted] s t

/-- R118: with n = 0 nothing is drawn and nothing raised, whatever I is; VF is 0 and `dirty` set. -/
def Obligations.DrawOfNoRowsClearsVF : Prop :=
  ∀ (x y : Reg) (s : State), ∃ t, exec (.drw x y 0) s = .next t ∧ t.reg 15 = 0 ∧ t.dirty = true ∧
    State.SameExcept [.reg 15, .dirty] s t

/-- R113, R116, and of R117 that the same sprite drawn twice at the same place restores the framebuffer (the two
coordinate registers unchanged, which is so unless one of them is VF and the first draw changed it). The second draw
turns off exactly what the first turned on, so it collides iff the sprite has a pixel on where the screen was off:
R117's own inference leaves out that condition, and R113 and R116 are followed (log 28). -/
def Obligations.DrawingTwiceRestoresTheFramebuffer : Prop :=
  ∀ (x y : Reg) (n : Nibble) (s : State), (n = 0 ∨ s.i.toNat + n.toNat ≤ 0x1000) →
    ∃ t, exec (.drw x y n) s = .next t ∧ t.dirty = true ∧
      (t.reg x = s.reg x → t.reg y = s.reg y →
        ∃ u, exec (.drw x y n) t = .next u ∧ u.dirty = true ∧ u.fb = s.fb ∧
          (u.reg 15 = 1 ↔ ∃ c q, s.spritePixel x y n c q = true ∧ s.pixel c q = false))

/-! ## Keys and timers (44_keys_timers.md) -/

/-- R119, R120: the pc moves 2 more when the key V[x] names is held, or is not held; a value above 15 is an error (the
spec's D17) and nothing changes. -/
def Obligations.KeySkipsReadTheSnapshot : Prop :=
  ∀ x : Reg,
    (Instr.skp x).encodedAs (0xE09E + x.val * 256) ∧ (Instr.sknp x).encodedAs (0xE0A1 + x.val * 256) ∧
    (∀ (s : State) (k : Key), (s.reg x).toNat = k.val →
      (∃ t, exec (.skp x) s = .next t ∧ t.pc = (if s.host.input.held[k] = true then s.pc + 2 else s.pc) ∧
        State.SameExcept [.pc] s t) ∧
      (∃ t, exec (.sknp x) s = .next t ∧ t.pc = (if s.host.input.held[k] = true then s.pc else s.pc + 2) ∧
        State.SameExcept [.pc] s t)) ∧
    (∀ s : State, 15 < (s.reg x).toNat →
      (∃ t, exec (.skp x) s = .next t ∧ t.faulted = some (.keyOutOfRange (s.reg x).toNat) ∧
        State.SameExcept [.faulted] s t) ∧
      (∃ t, exec (.sknp x) s = .next t ∧ t.faulted = some (.keyOutOfRange (s.reg x).toNat) ∧
        State.SameExcept [.faulted] s t))

/-- R121: the core waits with its target register, and the pc stays at the instruction. -/
def Obligations.WaitForKeySuspends : Prop :=
  ∀ x : Reg, (Instr.ldVxK x).encodedAs (0xF00A + x.val * 256) ∧
    ∀ s : State, ∃ t, exec (.ldVxK x) s = .next t ∧ t.waiting = some x ∧ t.advance.pc = s.pc ∧
      State.SameExcept [.waiting] s t

/-- R122, R123, R124, R149: the delay timer is read and written and the sound timer written; the sound is active iff the
sound timer is nonzero. -/
def Obligations.TimerTransfers : Prop :=
  ∀ x : Reg,
    (Instr.ldVxDt x).encodedAs (0xF007 + x.val * 256) ∧ (Instr.ldDtVx x).encodedAs (0xF015 + x.val * 256) ∧
    (Instr.ldStVx x).encodedAs (0xF018 + x.val * 256) ∧
    ∀ s : State,
      (∃ t, exec (.ldVxDt x) s = .next t ∧ t.reg x = s.dt ∧ State.SameExcept [.reg x] s t) ∧
      (∃ t, exec (.ldDtVx x) s = .next t ∧ t.dt = s.reg x ∧ State.SameExcept [.dt] s t) ∧
      (∃ t, exec (.ldStVx x) s = .next t ∧ t.st = s.reg x ∧ (t.soundActive = true ↔ t.st ≠ 0) ∧
        State.SameExcept [.st] s t)

/-! ## Index register and blocks (45_index_memory.md) -/

/-- R125: the index takes the address. -/
def Obligations.SetIndexTakesTheAddress : Prop :=
  ∀ nnn : Addr, (Instr.ldI nnn).encodedAs (0xA000 + nnn.toNat) ∧
    ∀ s : State, ∃ t, exec (.ldI nnn) s = .next t ∧ t.i.toNat = nnn.toNat ∧ State.SameExcept [.index] s t

/-- R126 (past 0xFFFF by INDEX_OVERFLOW, the spec's D18): the index takes the sum; past 0xFFFF it is an error, or wraps. -/
def Obligations.AddToIndexTakesTheSum : Prop :=
  ∀ x : Reg, (Instr.addI x).encodedAs (0xF01E + x.val * 256) ∧
    (∀ s : State, s.i.toNat + (s.reg x).toNat ≤ 0xFFFF →
      ∃ t, exec (.addI x) s = .next t ∧ t.i.toNat = s.i.toNat + (s.reg x).toNat ∧ State.SameExcept [.index] s t) ∧
    (∀ s : State, 0xFFFF < s.i.toNat + (s.reg x).toNat → s.cfg.indexOverflow = .wrap →
      ∃ t, exec (.addI x) s = .next t ∧ t.i.toNat = (s.i.toNat + (s.reg x).toNat) % 0x10000 ∧
        State.SameExcept [.index] s t) ∧
    (∀ s : State, 0xFFFF < s.i.toNat + (s.reg x).toNat → s.cfg.indexOverflow = .fault →
      ∃ t, exec (.addI x) s = .next t ∧ t.faulted = some (.indexOverflow (s.i.toNat + (s.reg x).toNat)) ∧
        State.SameExcept [.faulted] s t)

/-- R127, for a FONT_BASE within the limit of R21 (the invariant has it): the index takes the glyph's address, not
clamped. -/
def Obligations.GlyphIndexIsNotClamped : Prop :=
  ∀ x : Reg, (Instr.ldF x).encodedAs (0xF029 + x.val * 256) ∧
    ∀ s : State, s.cfg.wf = true →
      ∃ t, exec (.ldF x) s = .next t ∧ t.i.toNat = s.cfg.fontBase.toNat + 5 * (s.reg x).toNat ∧
        State.SameExcept [.index] s t

/-- R128: hundreds, tens and units at I, I + 1 and I + 2; out of range it is an error and nothing is written. -/
def Obligations.BcdStoresTheThreeDigits : Prop :=
  ∀ x : Reg, (Instr.ldB x).encodedAs (0xF033 + x.val * 256) ∧
    (∀ s : State, s.i.toNat + 3 ≤ 0x1000 →
      ∃ t, exec (.ldB x) s = .next t ∧ (t.readByte s.i.toNat).toNat = (s.reg x).toNat / 100 ∧
        (t.readByte (s.i.toNat + 1)).toNat = (s.reg x).toNat / 10 % 10 ∧
        (t.readByte (s.i.toNat + 2)).toNat = (s.reg x).toNat % 10 ∧
        State.SameExcept (bytesFrom s.i.toNat 3) s t) ∧
    (∀ s : State, 0x1000 < s.i.toNat + 3 →
      ∃ t, exec (.ldB x) s = .next t ∧ t.faulted = some (.memOutOfBounds (max s.i.toNat 0x1000)) ∧
        State.SameExcept [.faulted] s t)

/-- R129: V0..Vx go to memory from I on, and I moves past them under STORE_INCREMENTS_I only; out of range it is an error
and nothing is written. -/
def Obligations.BlockStoreCopiesTheRegisters : Prop :=
  ∀ x : Reg, (Instr.storeRegs x).encodedAs (0xF055 + x.val * 256) ∧
    (∀ s : State, s.i.toNat + x.val + 1 ≤ 0x1000 → s.cfg.storeIncrementsI = false →
      ∃ t, exec (.storeRegs x) s = .next t ∧ (∀ k : Reg, k ≤ x → t.readByte (s.i.toNat + k.val) = s.reg k) ∧
        State.SameExcept (bytesFrom s.i.toNat (x.val + 1)) s t) ∧
    (∀ s : State, s.i.toNat + x.val + 1 ≤ 0x1000 → s.cfg.storeIncrementsI = true →
      ∃ t, exec (.storeRegs x) s = .next t ∧ (∀ k : Reg, k ≤ x → t.readByte (s.i.toNat + k.val) = s.reg k) ∧
        t.i.toNat = s.i.toNat + x.val + 1 ∧
        State.SameExcept (.index :: bytesFrom s.i.toNat (x.val + 1)) s t) ∧
    (∀ s : State, 0x1000 < s.i.toNat + x.val + 1 →
      ∃ t, exec (.storeRegs x) s = .next t ∧ t.faulted = some (.memOutOfBounds (max s.i.toNat 0x1000)) ∧
        State.SameExcept [.faulted] s t)

/-- R130: V0..Vx come from memory from I on, and I never changes; out of range it is an error and no register is
written. -/
def Obligations.BlockLoadCopiesTheMemory : Prop :=
  ∀ x : Reg, (Instr.loadRegs x).encodedAs (0xF065 + x.val * 256) ∧
    (∀ s : State, s.i.toNat + x.val + 1 ≤ 0x1000 →
      ∃ t, exec (.loadRegs x) s = .next t ∧ (∀ k : Reg, k ≤ x → t.reg k = s.readByte (s.i.toNat + k.val)) ∧
        State.SameExcept (regsTo x) s t) ∧
    (∀ s : State, 0x1000 < s.i.toNat + x.val + 1 →
      ∃ t, exec (.loadRegs x) s = .next t ∧ t.faulted = some (.memOutOfBounds (max s.i.toNat 0x1000)) ∧
        State.SameExcept [.faulted] s t)

/-- R47, R161 (the spec's D27): two bytes that a block store put at the pc are the next word fetched there. -/
def Obligations.StoredBytesAreFetchedAtOnce : Prop :=
  ∀ (x k j : Reg) (s t : State) (p : Word), exec (.storeRegs x) s = .next t → s.i.toNat + x.val + 1 ≤ 0x1000 →
    k < j → j ≤ x → j.val = k.val + 1 → p.toNat = s.i.toNat + k.val →
    ((t.setPc p).fetchWord).toNat = (s.reg k).toNat * 256 + (s.reg j).toNat
end

