-- ==== Sys2Proof/Laws/State.lean ====
section
/-! SUPPORT. One lemma a field an update of the state, so that no proof unfolds a record update. -/

namespace Sys2Proof.Machine

variable (s : State)

@[simp] theorem State.setMem_mem (m : Memory) : (s.setMem m).mem = m := rfl
@[simp] theorem State.setMem_v (m : Memory) : (s.setMem m).v = s.v := rfl
@[simp] theorem State.setMem_i (m : Memory) : (s.setMem m).i = s.i := rfl
@[simp] theorem State.setMem_pc (m : Memory) : (s.setMem m).pc = s.pc := rfl
@[simp] theorem State.setMem_stack (m : Memory) : (s.setMem m).stack = s.stack := rfl
@[simp] theorem State.setMem_dt (m : Memory) : (s.setMem m).dt = s.dt := rfl
@[simp] theorem State.setMem_st (m : Memory) : (s.setMem m).st = s.st := rfl
@[simp] theorem State.setMem_fb (m : Memory) : (s.setMem m).fb = s.fb := rfl
@[simp] theorem State.setMem_dirty (m : Memory) : (s.setMem m).dirty = s.dirty := rfl
@[simp] theorem State.setMem_didJump (m : Memory) : (s.setMem m).didJump = s.didJump := rfl
@[simp] theorem State.setMem_waiting (m : Memory) : (s.setMem m).waiting = s.waiting := rfl
@[simp] theorem State.setMem_faulted (m : Memory) : (s.setMem m).faulted = s.faulted := rfl
@[simp] theorem State.setMem_cfg (m : Memory) : (s.setMem m).cfg = s.cfg := rfl
@[simp] theorem State.setMem_draws (m : Memory) : (s.setMem m).draws = s.draws := rfl
@[simp] theorem State.setMem_host (m : Memory) : (s.setMem m).host = s.host := rfl

@[simp] theorem State.setV_mem (a : Vector Byte 16) : (s.setV a).mem = s.mem := rfl
@[simp] theorem State.setV_v (a : Vector Byte 16) : (s.setV a).v = a := rfl
@[simp] theorem State.setV_i (a : Vector Byte 16) : (s.setV a).i = s.i := rfl
@[simp] theorem State.setV_pc (a : Vector Byte 16) : (s.setV a).pc = s.pc := rfl
@[simp] theorem State.setV_stack (a : Vector Byte 16) : (s.setV a).stack = s.stack := rfl
@[simp] theorem State.setV_dt (a : Vector Byte 16) : (s.setV a).dt = s.dt := rfl
@[simp] theorem State.setV_st (a : Vector Byte 16) : (s.setV a).st = s.st := rfl
@[simp] theorem State.setV_fb (a : Vector Byte 16) : (s.setV a).fb = s.fb := rfl
@[simp] theorem State.setV_dirty (a : Vector Byte 16) : (s.setV a).dirty = s.dirty := rfl
@[simp] theorem State.setV_didJump (a : Vector Byte 16) : (s.setV a).didJump = s.didJump := rfl
@[simp] theorem State.setV_waiting (a : Vector Byte 16) : (s.setV a).waiting = s.waiting := rfl
@[simp] theorem State.setV_faulted (a : Vector Byte 16) : (s.setV a).faulted = s.faulted := rfl
@[simp] theorem State.setV_cfg (a : Vector Byte 16) : (s.setV a).cfg = s.cfg := rfl
@[simp] theorem State.setV_draws (a : Vector Byte 16) : (s.setV a).draws = s.draws := rfl
@[simp] theorem State.setV_host (a : Vector Byte 16) : (s.setV a).host = s.host := rfl

@[simp] theorem State.setI_mem (w : Word) : (s.setI w).mem = s.mem := rfl
@[simp] theorem State.setI_v (w : Word) : (s.setI w).v = s.v := rfl
@[simp] theorem State.setI_i (w : Word) : (s.setI w).i = w := rfl
@[simp] theorem State.setI_pc (w : Word) : (s.setI w).pc = s.pc := rfl
@[simp] theorem State.setI_stack (w : Word) : (s.setI w).stack = s.stack := rfl
@[simp] theorem State.setI_dt (w : Word) : (s.setI w).dt = s.dt := rfl
@[simp] theorem State.setI_st (w : Word) : (s.setI w).st = s.st := rfl
@[simp] theorem State.setI_fb (w : Word) : (s.setI w).fb = s.fb := rfl
@[simp] theorem State.setI_dirty (w : Word) : (s.setI w).dirty = s.dirty := rfl
@[simp] theorem State.setI_didJump (w : Word) : (s.setI w).didJump = s.didJump := rfl
@[simp] theorem State.setI_waiting (w : Word) : (s.setI w).waiting = s.waiting := rfl
@[simp] theorem State.setI_faulted (w : Word) : (s.setI w).faulted = s.faulted := rfl
@[simp] theorem State.setI_cfg (w : Word) : (s.setI w).cfg = s.cfg := rfl
@[simp] theorem State.setI_draws (w : Word) : (s.setI w).draws = s.draws := rfl
@[simp] theorem State.setI_host (w : Word) : (s.setI w).host = s.host := rfl

@[simp] theorem State.setPc_mem (w : Word) : (s.setPc w).mem = s.mem := rfl
@[simp] theorem State.setPc_v (w : Word) : (s.setPc w).v = s.v := rfl
@[simp] theorem State.setPc_i (w : Word) : (s.setPc w).i = s.i := rfl
@[simp] theorem State.setPc_pc (w : Word) : (s.setPc w).pc = w := rfl
@[simp] theorem State.setPc_stack (w : Word) : (s.setPc w).stack = s.stack := rfl
@[simp] theorem State.setPc_dt (w : Word) : (s.setPc w).dt = s.dt := rfl
@[simp] theorem State.setPc_st (w : Word) : (s.setPc w).st = s.st := rfl
@[simp] theorem State.setPc_fb (w : Word) : (s.setPc w).fb = s.fb := rfl
@[simp] theorem State.setPc_dirty (w : Word) : (s.setPc w).dirty = s.dirty := rfl
@[simp] theorem State.setPc_didJump (w : Word) : (s.setPc w).didJump = s.didJump := rfl
@[simp] theorem State.setPc_waiting (w : Word) : (s.setPc w).waiting = s.waiting := rfl
@[simp] theorem State.setPc_faulted (w : Word) : (s.setPc w).faulted = s.faulted := rfl
@[simp] theorem State.setPc_cfg (w : Word) : (s.setPc w).cfg = s.cfg := rfl
@[simp] theorem State.setPc_draws (w : Word) : (s.setPc w).draws = s.draws := rfl
@[simp] theorem State.setPc_host (w : Word) : (s.setPc w).host = s.host := rfl

@[simp] theorem State.setStack_mem (l : List Word) : (s.setStack l).mem = s.mem := rfl
@[simp] theorem State.setStack_v (l : List Word) : (s.setStack l).v = s.v := rfl
@[simp] theorem State.setStack_i (l : List Word) : (s.setStack l).i = s.i := rfl
@[simp] theorem State.setStack_pc (l : List Word) : (s.setStack l).pc = s.pc := rfl
@[simp] theorem State.setStack_stack (l : List Word) : (s.setStack l).stack = l := rfl
@[simp] theorem State.setStack_dt (l : List Word) : (s.setStack l).dt = s.dt := rfl
@[simp] theorem State.setStack_st (l : List Word) : (s.setStack l).st = s.st := rfl
@[simp] theorem State.setStack_fb (l : List Word) : (s.setStack l).fb = s.fb := rfl
@[simp] theorem State.setStack_dirty (l : List Word) : (s.setStack l).dirty = s.dirty := rfl
@[simp] theorem State.setStack_didJump (l : List Word) : (s.setStack l).didJump = s.didJump := rfl
@[simp] theorem State.setStack_waiting (l : List Word) : (s.setStack l).waiting = s.waiting := rfl
@[simp] theorem State.setStack_faulted (l : List Word) : (s.setStack l).faulted = s.faulted := rfl
@[simp] theorem State.setStack_cfg (l : List Word) : (s.setStack l).cfg = s.cfg := rfl
@[simp] theorem State.setStack_draws (l : List Word) : (s.setStack l).draws = s.draws := rfl
@[simp] theorem State.setStack_host (l : List Word) : (s.setStack l).host = s.host := rfl

@[simp] theorem State.setDt_mem (b : Byte) : (s.setDt b).mem = s.mem := rfl
@[simp] theorem State.setDt_v (b : Byte) : (s.setDt b).v = s.v := rfl
@[simp] theorem State.setDt_i (b : Byte) : (s.setDt b).i = s.i := rfl
@[simp] theorem State.setDt_pc (b : Byte) : (s.setDt b).pc = s.pc := rfl
@[simp] theorem State.setDt_stack (b : Byte) : (s.setDt b).stack = s.stack := rfl
@[simp] theorem State.setDt_dt (b : Byte) : (s.setDt b).dt = b := rfl
@[simp] theorem State.setDt_st (b : Byte) : (s.setDt b).st = s.st := rfl
@[simp] theorem State.setDt_fb (b : Byte) : (s.setDt b).fb = s.fb := rfl
@[simp] theorem State.setDt_dirty (b : Byte) : (s.setDt b).dirty = s.dirty := rfl
@[simp] theorem State.setDt_didJump (b : Byte) : (s.setDt b).didJump = s.didJump := rfl
@[simp] theorem State.setDt_waiting (b : Byte) : (s.setDt b).waiting = s.waiting := rfl
@[simp] theorem State.setDt_faulted (b : Byte) : (s.setDt b).faulted = s.faulted := rfl
@[simp] theorem State.setDt_cfg (b : Byte) : (s.setDt b).cfg = s.cfg := rfl
@[simp] theorem State.setDt_draws (b : Byte) : (s.setDt b).draws = s.draws := rfl
@[simp] theorem State.setDt_host (b : Byte) : (s.setDt b).host = s.host := rfl

@[simp] theorem State.setSt_mem (b : Byte) : (s.setSt b).mem = s.mem := rfl
@[simp] theorem State.setSt_v (b : Byte) : (s.setSt b).v = s.v := rfl
@[simp] theorem State.setSt_i (b : Byte) : (s.setSt b).i = s.i := rfl
@[simp] theorem State.setSt_pc (b : Byte) : (s.setSt b).pc = s.pc := rfl
@[simp] theorem State.setSt_stack (b : Byte) : (s.setSt b).stack = s.stack := rfl
@[simp] theorem State.setSt_dt (b : Byte) : (s.setSt b).dt = s.dt := rfl
@[simp] theorem State.setSt_st (b : Byte) : (s.setSt b).st = b := rfl
@[simp] theorem State.setSt_fb (b : Byte) : (s.setSt b).fb = s.fb := rfl
@[simp] theorem State.setSt_dirty (b : Byte) : (s.setSt b).dirty = s.dirty := rfl
@[simp] theorem State.setSt_didJump (b : Byte) : (s.setSt b).didJump = s.didJump := rfl
@[simp] theorem State.setSt_waiting (b : Byte) : (s.setSt b).waiting = s.waiting := rfl
@[simp] theorem State.setSt_faulted (b : Byte) : (s.setSt b).faulted = s.faulted := rfl
@[simp] theorem State.setSt_cfg (b : Byte) : (s.setSt b).cfg = s.cfg := rfl
@[simp] theorem State.setSt_draws (b : Byte) : (s.setSt b).draws = s.draws := rfl
@[simp] theorem State.setSt_host (b : Byte) : (s.setSt b).host = s.host := rfl

@[simp] theorem State.setFb_mem (f : Framebuffer) : (s.setFb f).mem = s.mem := rfl
@[simp] theorem State.setFb_v (f : Framebuffer) : (s.setFb f).v = s.v := rfl
@[simp] theorem State.setFb_i (f : Framebuffer) : (s.setFb f).i = s.i := rfl
@[simp] theorem State.setFb_pc (f : Framebuffer) : (s.setFb f).pc = s.pc := rfl
@[simp] theorem State.setFb_stack (f : Framebuffer) : (s.setFb f).stack = s.stack := rfl
@[simp] theorem State.setFb_dt (f : Framebuffer) : (s.setFb f).dt = s.dt := rfl
@[simp] theorem State.setFb_st (f : Framebuffer) : (s.setFb f).st = s.st := rfl
@[simp] theorem State.setFb_fb (f : Framebuffer) : (s.setFb f).fb = f := rfl
@[simp] theorem State.setFb_dirty (f : Framebuffer) : (s.setFb f).dirty = s.dirty := rfl
@[simp] theorem State.setFb_didJump (f : Framebuffer) : (s.setFb f).didJump = s.didJump := rfl
@[simp] theorem State.setFb_waiting (f : Framebuffer) : (s.setFb f).waiting = s.waiting := rfl
@[simp] theorem State.setFb_faulted (f : Framebuffer) : (s.setFb f).faulted = s.faulted := rfl
@[simp] theorem State.setFb_cfg (f : Framebuffer) : (s.setFb f).cfg = s.cfg := rfl
@[simp] theorem State.setFb_draws (f : Framebuffer) : (s.setFb f).draws = s.draws := rfl
@[simp] theorem State.setFb_host (f : Framebuffer) : (s.setFb f).host = s.host := rfl

@[simp] theorem State.setDirty_mem (b : Bool) : (s.setDirty b).mem = s.mem := rfl
@[simp] theorem State.setDirty_v (b : Bool) : (s.setDirty b).v = s.v := rfl
@[simp] theorem State.setDirty_i (b : Bool) : (s.setDirty b).i = s.i := rfl
@[simp] theorem State.setDirty_pc (b : Bool) : (s.setDirty b).pc = s.pc := rfl
@[simp] theorem State.setDirty_stack (b : Bool) : (s.setDirty b).stack = s.stack := rfl
@[simp] theorem State.setDirty_dt (b : Bool) : (s.setDirty b).dt = s.dt := rfl
@[simp] theorem State.setDirty_st (b : Bool) : (s.setDirty b).st = s.st := rfl
@[simp] theorem State.setDirty_fb (b : Bool) : (s.setDirty b).fb = s.fb := rfl
@[simp] theorem State.setDirty_dirty (b : Bool) : (s.setDirty b).dirty = b := rfl
@[simp] theorem State.setDirty_didJump (b : Bool) : (s.setDirty b).didJump = s.didJump := rfl
@[simp] theorem State.setDirty_waiting (b : Bool) : (s.setDirty b).waiting = s.waiting := rfl
@[simp] theorem State.setDirty_faulted (b : Bool) : (s.setDirty b).faulted = s.faulted := rfl
@[simp] theorem State.setDirty_cfg (b : Bool) : (s.setDirty b).cfg = s.cfg := rfl
@[simp] theorem State.setDirty_draws (b : Bool) : (s.setDirty b).draws = s.draws := rfl
@[simp] theorem State.setDirty_host (b : Bool) : (s.setDirty b).host = s.host := rfl

@[simp] theorem State.setDidJump_mem (b : Bool) : (s.setDidJump b).mem = s.mem := rfl
@[simp] theorem State.setDidJump_v (b : Bool) : (s.setDidJump b).v = s.v := rfl
@[simp] theorem State.setDidJump_i (b : Bool) : (s.setDidJump b).i = s.i := rfl
@[simp] theorem State.setDidJump_pc (b : Bool) : (s.setDidJump b).pc = s.pc := rfl
@[simp] theorem State.setDidJump_stack (b : Bool) : (s.setDidJump b).stack = s.stack := rfl
@[simp] theorem State.setDidJump_dt (b : Bool) : (s.setDidJump b).dt = s.dt := rfl
@[simp] theorem State.setDidJump_st (b : Bool) : (s.setDidJump b).st = s.st := rfl
@[simp] theorem State.setDidJump_fb (b : Bool) : (s.setDidJump b).fb = s.fb := rfl
@[simp] theorem State.setDidJump_dirty (b : Bool) : (s.setDidJump b).dirty = s.dirty := rfl
@[simp] theorem State.setDidJump_didJump (b : Bool) : (s.setDidJump b).didJump = b := rfl
@[simp] theorem State.setDidJump_waiting (b : Bool) : (s.setDidJump b).waiting = s.waiting := rfl
@[simp] theorem State.setDidJump_faulted (b : Bool) : (s.setDidJump b).faulted = s.faulted := rfl
@[simp] theorem State.setDidJump_cfg (b : Bool) : (s.setDidJump b).cfg = s.cfg := rfl
@[simp] theorem State.setDidJump_draws (b : Bool) : (s.setDidJump b).draws = s.draws := rfl
@[simp] theorem State.setDidJump_host (b : Bool) : (s.setDidJump b).host = s.host := rfl

@[simp] theorem State.setWaiting_mem (w : Option Reg) : (s.setWaiting w).mem = s.mem := rfl
@[simp] theorem State.setWaiting_v (w : Option Reg) : (s.setWaiting w).v = s.v := rfl
@[simp] theorem State.setWaiting_i (w : Option Reg) : (s.setWaiting w).i = s.i := rfl
@[simp] theorem State.setWaiting_pc (w : Option Reg) : (s.setWaiting w).pc = s.pc := rfl
@[simp] theorem State.setWaiting_stack (w : Option Reg) : (s.setWaiting w).stack = s.stack := rfl
@[simp] theorem State.setWaiting_dt (w : Option Reg) : (s.setWaiting w).dt = s.dt := rfl
@[simp] theorem State.setWaiting_st (w : Option Reg) : (s.setWaiting w).st = s.st := rfl
@[simp] theorem State.setWaiting_fb (w : Option Reg) : (s.setWaiting w).fb = s.fb := rfl
@[simp] theorem State.setWaiting_dirty (w : Option Reg) : (s.setWaiting w).dirty = s.dirty := rfl
@[simp] theorem State.setWaiting_didJump (w : Option Reg) : (s.setWaiting w).didJump = s.didJump := rfl
@[simp] theorem State.setWaiting_waiting (w : Option Reg) : (s.setWaiting w).waiting = w := rfl
@[simp] theorem State.setWaiting_faulted (w : Option Reg) : (s.setWaiting w).faulted = s.faulted := rfl
@[simp] theorem State.setWaiting_cfg (w : Option Reg) : (s.setWaiting w).cfg = s.cfg := rfl
@[simp] theorem State.setWaiting_draws (w : Option Reg) : (s.setWaiting w).draws = s.draws := rfl
@[simp] theorem State.setWaiting_host (w : Option Reg) : (s.setWaiting w).host = s.host := rfl

@[simp] theorem State.setFaulted_mem (e : Option Fault) : (s.setFaulted e).mem = s.mem := rfl
@[simp] theorem State.setFaulted_v (e : Option Fault) : (s.setFaulted e).v = s.v := rfl
@[simp] theorem State.setFaulted_i (e : Option Fault) : (s.setFaulted e).i = s.i := rfl
@[simp] theorem State.setFaulted_pc (e : Option Fault) : (s.setFaulted e).pc = s.pc := rfl
@[simp] theorem State.setFaulted_stack (e : Option Fault) : (s.setFaulted e).stack = s.stack := rfl
@[simp] theorem State.setFaulted_dt (e : Option Fault) : (s.setFaulted e).dt = s.dt := rfl
@[simp] theorem State.setFaulted_st (e : Option Fault) : (s.setFaulted e).st = s.st := rfl
@[simp] theorem State.setFaulted_fb (e : Option Fault) : (s.setFaulted e).fb = s.fb := rfl
@[simp] theorem State.setFaulted_dirty (e : Option Fault) : (s.setFaulted e).dirty = s.dirty := rfl
@[simp] theorem State.setFaulted_didJump (e : Option Fault) : (s.setFaulted e).didJump = s.didJump := rfl
@[simp] theorem State.setFaulted_waiting (e : Option Fault) : (s.setFaulted e).waiting = s.waiting := rfl
@[simp] theorem State.setFaulted_faulted (e : Option Fault) : (s.setFaulted e).faulted = e := rfl
@[simp] theorem State.setFaulted_cfg (e : Option Fault) : (s.setFaulted e).cfg = s.cfg := rfl
@[simp] theorem State.setFaulted_draws (e : Option Fault) : (s.setFaulted e).draws = s.draws := rfl
@[simp] theorem State.setFaulted_host (e : Option Fault) : (s.setFaulted e).host = s.host := rfl

@[simp] theorem State.setDraws_mem (n : Nat) : (s.setDraws n).mem = s.mem := rfl
@[simp] theorem State.setDraws_v (n : Nat) : (s.setDraws n).v = s.v := rfl
@[simp] theorem State.setDraws_i (n : Nat) : (s.setDraws n).i = s.i := rfl
@[simp] theorem State.setDraws_pc (n : Nat) : (s.setDraws n).pc = s.pc := rfl
@[simp] theorem State.setDraws_stack (n : Nat) : (s.setDraws n).stack = s.stack := rfl
@[simp] theorem State.setDraws_dt (n : Nat) : (s.setDraws n).dt = s.dt := rfl
@[simp] theorem State.setDraws_st (n : Nat) : (s.setDraws n).st = s.st := rfl
@[simp] theorem State.setDraws_fb (n : Nat) : (s.setDraws n).fb = s.fb := rfl
@[simp] theorem State.setDraws_dirty (n : Nat) : (s.setDraws n).dirty = s.dirty := rfl
@[simp] theorem State.setDraws_didJump (n : Nat) : (s.setDraws n).didJump = s.didJump := rfl
@[simp] theorem State.setDraws_waiting (n : Nat) : (s.setDraws n).waiting = s.waiting := rfl
@[simp] theorem State.setDraws_faulted (n : Nat) : (s.setDraws n).faulted = s.faulted := rfl
@[simp] theorem State.setDraws_cfg (n : Nat) : (s.setDraws n).cfg = s.cfg := rfl
@[simp] theorem State.setDraws_draws (n : Nat) : (s.setDraws n).draws = n := rfl
@[simp] theorem State.setDraws_host (n : Nat) : (s.setDraws n).host = s.host := rfl

@[simp] theorem State.setHost_mem (h : HostPort) : (s.setHost h).mem = s.mem := rfl
@[simp] theorem State.setHost_v (h : HostPort) : (s.setHost h).v = s.v := rfl
@[simp] theorem State.setHost_i (h : HostPort) : (s.setHost h).i = s.i := rfl
@[simp] theorem State.setHost_pc (h : HostPort) : (s.setHost h).pc = s.pc := rfl
@[simp] theorem State.setHost_stack (h : HostPort) : (s.setHost h).stack = s.stack := rfl
@[simp] theorem State.setHost_dt (h : HostPort) : (s.setHost h).dt = s.dt := rfl
@[simp] theorem State.setHost_st (h : HostPort) : (s.setHost h).st = s.st := rfl
@[simp] theorem State.setHost_fb (h : HostPort) : (s.setHost h).fb = s.fb := rfl
@[simp] theorem State.setHost_dirty (h : HostPort) : (s.setHost h).dirty = s.dirty := rfl
@[simp] theorem State.setHost_didJump (h : HostPort) : (s.setHost h).didJump = s.didJump := rfl
@[simp] theorem State.setHost_waiting (h : HostPort) : (s.setHost h).waiting = s.waiting := rfl
@[simp] theorem State.setHost_faulted (h : HostPort) : (s.setHost h).faulted = s.faulted := rfl
@[simp] theorem State.setHost_cfg (h : HostPort) : (s.setHost h).cfg = s.cfg := rfl
@[simp] theorem State.setHost_draws (h : HostPort) : (s.setHost h).draws = s.draws := rfl
@[simp] theorem State.setHost_host (h : HostPort) : (s.setHost h).host = h := rfl

@[simp] theorem State.setReg_mem (r : Reg) (b : Byte) : (s.setReg r b).mem = s.mem := rfl
@[simp] theorem State.setReg_v (r : Reg) (b : Byte) : (s.setReg r b).v = s.v.set r b := rfl
@[simp] theorem State.setReg_i (r : Reg) (b : Byte) : (s.setReg r b).i = s.i := rfl
@[simp] theorem State.setReg_pc (r : Reg) (b : Byte) : (s.setReg r b).pc = s.pc := rfl
@[simp] theorem State.setReg_stack (r : Reg) (b : Byte) : (s.setReg r b).stack = s.stack := rfl
@[simp] theorem State.setReg_dt (r : Reg) (b : Byte) : (s.setReg r b).dt = s.dt := rfl
@[simp] theorem State.setReg_st (r : Reg) (b : Byte) : (s.setReg r b).st = s.st := rfl
@[simp] theorem State.setReg_fb (r : Reg) (b : Byte) : (s.setReg r b).fb = s.fb := rfl
@[simp] theorem State.setReg_dirty (r : Reg) (b : Byte) : (s.setReg r b).dirty = s.dirty := rfl
@[simp] theorem State.setReg_didJump (r : Reg) (b : Byte) : (s.setReg r b).didJump = s.didJump := rfl
@[simp] theorem State.setReg_waiting (r : Reg) (b : Byte) : (s.setReg r b).waiting = s.waiting := rfl
@[simp] theorem State.setReg_faulted (r : Reg) (b : Byte) : (s.setReg r b).faulted = s.faulted := rfl
@[simp] theorem State.setReg_cfg (r : Reg) (b : Byte) : (s.setReg r b).cfg = s.cfg := rfl
@[simp] theorem State.setReg_draws (r : Reg) (b : Byte) : (s.setReg r b).draws = s.draws := rfl
@[simp] theorem State.setReg_host (r : Reg) (b : Byte) : (s.setReg r b).host = s.host := rfl

@[simp] theorem State.setRegFlag_mem (x : Reg) (a b : Byte) : (s.setRegFlag x a b).mem = s.mem := rfl
@[simp] theorem State.setRegFlag_v (x : Reg) (a b : Byte) : (s.setRegFlag x a b).v = (s.v.set x a).set regVF b := rfl
@[simp] theorem State.setRegFlag_i (x : Reg) (a b : Byte) : (s.setRegFlag x a b).i = s.i := rfl
@[simp] theorem State.setRegFlag_pc (x : Reg) (a b : Byte) : (s.setRegFlag x a b).pc = s.pc := rfl
@[simp] theorem State.setRegFlag_stack (x : Reg) (a b : Byte) : (s.setRegFlag x a b).stack = s.stack := rfl
@[simp] theorem State.setRegFlag_dt (x : Reg) (a b : Byte) : (s.setRegFlag x a b).dt = s.dt := rfl
@[simp] theorem State.setRegFlag_st (x : Reg) (a b : Byte) : (s.setRegFlag x a b).st = s.st := rfl
@[simp] theorem State.setRegFlag_fb (x : Reg) (a b : Byte) : (s.setRegFlag x a b).fb = s.fb := rfl
@[simp] theorem State.setRegFlag_dirty (x : Reg) (a b : Byte) : (s.setRegFlag x a b).dirty = s.dirty := rfl
@[simp] theorem State.setRegFlag_didJump (x : Reg) (a b : Byte) : (s.setRegFlag x a b).didJump = s.didJump := rfl
@[simp] theorem State.setRegFlag_waiting (x : Reg) (a b : Byte) : (s.setRegFlag x a b).waiting = s.waiting := rfl
@[simp] theorem State.setRegFlag_faulted (x : Reg) (a b : Byte) : (s.setRegFlag x a b).faulted = s.faulted := rfl
@[simp] theorem State.setRegFlag_cfg (x : Reg) (a b : Byte) : (s.setRegFlag x a b).cfg = s.cfg := rfl
@[simp] theorem State.setRegFlag_draws (x : Reg) (a b : Byte) : (s.setRegFlag x a b).draws = s.draws := rfl
@[simp] theorem State.setRegFlag_host (x : Reg) (a b : Byte) : (s.setRegFlag x a b).host = s.host := rfl

@[simp] theorem State.raise_mem (e : Fault) : (s.raise e).mem = s.mem := rfl
@[simp] theorem State.raise_v (e : Fault) : (s.raise e).v = s.v := rfl
@[simp] theorem State.raise_i (e : Fault) : (s.raise e).i = s.i := rfl
@[simp] theorem State.raise_pc (e : Fault) : (s.raise e).pc = s.pc := rfl
@[simp] theorem State.raise_stack (e : Fault) : (s.raise e).stack = s.stack := rfl
@[simp] theorem State.raise_dt (e : Fault) : (s.raise e).dt = s.dt := rfl
@[simp] theorem State.raise_st (e : Fault) : (s.raise e).st = s.st := rfl
@[simp] theorem State.raise_fb (e : Fault) : (s.raise e).fb = s.fb := rfl
@[simp] theorem State.raise_dirty (e : Fault) : (s.raise e).dirty = s.dirty := rfl
@[simp] theorem State.raise_didJump (e : Fault) : (s.raise e).didJump = s.didJump := rfl
@[simp] theorem State.raise_waiting (e : Fault) : (s.raise e).waiting = s.waiting := rfl
@[simp] theorem State.raise_faulted (e : Fault) : (s.raise e).faulted = some e := rfl
@[simp] theorem State.raise_cfg (e : Fault) : (s.raise e).cfg = s.cfg := rfl
@[simp] theorem State.raise_draws (e : Fault) : (s.raise e).draws = s.draws := rfl
@[simp] theorem State.raise_host (e : Fault) : (s.raise e).host = s.host := rfl

@[simp] theorem State.jump_mem (w : Word) : (s.jump w).mem = s.mem := rfl
@[simp] theorem State.jump_v (w : Word) : (s.jump w).v = s.v := rfl
@[simp] theorem State.jump_i (w : Word) : (s.jump w).i = s.i := rfl
@[simp] theorem State.jump_pc (w : Word) : (s.jump w).pc = w := rfl
@[simp] theorem State.jump_stack (w : Word) : (s.jump w).stack = s.stack := rfl
@[simp] theorem State.jump_dt (w : Word) : (s.jump w).dt = s.dt := rfl
@[simp] theorem State.jump_st (w : Word) : (s.jump w).st = s.st := rfl
@[simp] theorem State.jump_fb (w : Word) : (s.jump w).fb = s.fb := rfl
@[simp] theorem State.jump_dirty (w : Word) : (s.jump w).dirty = s.dirty := rfl
@[simp] theorem State.jump_didJump (w : Word) : (s.jump w).didJump = true := rfl
@[simp] theorem State.jump_waiting (w : Word) : (s.jump w).waiting = s.waiting := rfl
@[simp] theorem State.jump_faulted (w : Word) : (s.jump w).faulted = s.faulted := rfl
@[simp] theorem State.jump_cfg (w : Word) : (s.jump w).cfg = s.cfg := rfl
@[simp] theorem State.jump_draws (w : Word) : (s.jump w).draws = s.draws := rfl
@[simp] theorem State.jump_host (w : Word) : (s.jump w).host = s.host := rfl

@[simp] theorem State.tick_mem : (s.tick).mem = s.mem := rfl
@[simp] theorem State.tick_v : (s.tick).v = s.v := rfl
@[simp] theorem State.tick_i : (s.tick).i = s.i := rfl
@[simp] theorem State.tick_pc : (s.tick).pc = s.pc := rfl
@[simp] theorem State.tick_stack : (s.tick).stack = s.stack := rfl
@[simp] theorem State.tick_dt : (s.tick).dt = tickByte s.dt := rfl
@[simp] theorem State.tick_st : (s.tick).st = tickByte s.st := rfl
@[simp] theorem State.tick_fb : (s.tick).fb = s.fb := rfl
@[simp] theorem State.tick_dirty : (s.tick).dirty = s.dirty := rfl
@[simp] theorem State.tick_didJump : (s.tick).didJump = s.didJump := rfl
@[simp] theorem State.tick_waiting : (s.tick).waiting = s.waiting := rfl
@[simp] theorem State.tick_faulted : (s.tick).faulted = s.faulted := rfl
@[simp] theorem State.tick_cfg : (s.tick).cfg = s.cfg := rfl
@[simp] theorem State.tick_draws : (s.tick).draws = s.draws := rfl
@[simp] theorem State.tick_host : (s.tick).host = s.host := rfl

@[simp] theorem State.endCall_mem (r : CallResult) : (s.endCall r).mem = s.mem := rfl
@[simp] theorem State.endCall_v (r : CallResult) : (s.endCall r).v = s.v := rfl
@[simp] theorem State.endCall_i (r : CallResult) : (s.endCall r).i = s.i := rfl
@[simp] theorem State.endCall_pc (r : CallResult) : (s.endCall r).pc = s.pc := rfl
@[simp] theorem State.endCall_stack (r : CallResult) : (s.endCall r).stack = s.stack := rfl
@[simp] theorem State.endCall_dt (r : CallResult) : (s.endCall r).dt = s.dt := rfl
@[simp] theorem State.endCall_st (r : CallResult) : (s.endCall r).st = s.st := rfl
@[simp] theorem State.endCall_fb (r : CallResult) : (s.endCall r).fb = s.fb := rfl
@[simp] theorem State.endCall_dirty (r : CallResult) : (s.endCall r).dirty = s.dirty := rfl
@[simp] theorem State.endCall_didJump (r : CallResult) : (s.endCall r).didJump = s.didJump := rfl
@[simp] theorem State.endCall_waiting (r : CallResult) : (s.endCall r).waiting = s.waiting := rfl
@[simp] theorem State.endCall_faulted (r : CallResult) : (s.endCall r).faulted = s.faulted := rfl
@[simp] theorem State.endCall_cfg (r : CallResult) : (s.endCall r).cfg = s.cfg := rfl
@[simp] theorem State.endCall_draws (r : CallResult) : (s.endCall r).draws = s.draws := rfl
@[simp] theorem State.endCall_host (r : CallResult) : (s.endCall r).host = { s.host with left := none, result := some r } := rfl

@[simp] theorem State.writeByte_v (a : Nat) (b : Byte) : (s.writeByte a b).v = s.v := rfl
@[simp] theorem State.writeByte_i (a : Nat) (b : Byte) : (s.writeByte a b).i = s.i := rfl
@[simp] theorem State.writeByte_pc (a : Nat) (b : Byte) : (s.writeByte a b).pc = s.pc := rfl
@[simp] theorem State.writeByte_stack (a : Nat) (b : Byte) : (s.writeByte a b).stack = s.stack := rfl
@[simp] theorem State.writeByte_dt (a : Nat) (b : Byte) : (s.writeByte a b).dt = s.dt := rfl
@[simp] theorem State.writeByte_st (a : Nat) (b : Byte) : (s.writeByte a b).st = s.st := rfl
@[simp] theorem State.writeByte_fb (a : Nat) (b : Byte) : (s.writeByte a b).fb = s.fb := rfl
@[simp] theorem State.writeByte_dirty (a : Nat) (b : Byte) : (s.writeByte a b).dirty = s.dirty := rfl
@[simp] theorem State.writeByte_didJump (a : Nat) (b : Byte) : (s.writeByte a b).didJump = s.didJump := rfl
@[simp] theorem State.writeByte_waiting (a : Nat) (b : Byte) : (s.writeByte a b).waiting = s.waiting := rfl
@[simp] theorem State.writeByte_faulted (a : Nat) (b : Byte) : (s.writeByte a b).faulted = s.faulted := rfl
@[simp] theorem State.writeByte_cfg (a : Nat) (b : Byte) : (s.writeByte a b).cfg = s.cfg := rfl
@[simp] theorem State.writeByte_draws (a : Nat) (b : Byte) : (s.writeByte a b).draws = s.draws := rfl
@[simp] theorem State.writeByte_host (a : Nat) (b : Byte) : (s.writeByte a b).host = s.host := rfl

@[simp] theorem State.skipIf_mem (c : Bool) : (s.skipIf c).mem = s.mem := by cases c <;> rfl
@[simp] theorem State.skipIf_v (c : Bool) : (s.skipIf c).v = s.v := by cases c <;> rfl
@[simp] theorem State.skipIf_i (c : Bool) : (s.skipIf c).i = s.i := by cases c <;> rfl
@[simp] theorem State.skipIf_pc (c : Bool) : (s.skipIf c).pc = if c then s.pc + 2 else s.pc := by cases c <;> rfl
@[simp] theorem State.skipIf_stack (c : Bool) : (s.skipIf c).stack = s.stack := by cases c <;> rfl
@[simp] theorem State.skipIf_dt (c : Bool) : (s.skipIf c).dt = s.dt := by cases c <;> rfl
@[simp] theorem State.skipIf_st (c : Bool) : (s.skipIf c).st = s.st := by cases c <;> rfl
@[simp] theorem State.skipIf_fb (c : Bool) : (s.skipIf c).fb = s.fb := by cases c <;> rfl
@[simp] theorem State.skipIf_dirty (c : Bool) : (s.skipIf c).dirty = s.dirty := by cases c <;> rfl
@[simp] theorem State.skipIf_didJump (c : Bool) : (s.skipIf c).didJump = s.didJump := by cases c <;> rfl
@[simp] theorem State.skipIf_waiting (c : Bool) : (s.skipIf c).waiting = s.waiting := by cases c <;> rfl
@[simp] theorem State.skipIf_faulted (c : Bool) : (s.skipIf c).faulted = s.faulted := by cases c <;> rfl
@[simp] theorem State.skipIf_cfg (c : Bool) : (s.skipIf c).cfg = s.cfg := by cases c <;> rfl
@[simp] theorem State.skipIf_draws (c : Bool) : (s.skipIf c).draws = s.draws := by cases c <;> rfl
@[simp] theorem State.skipIf_host (c : Bool) : (s.skipIf c).host = s.host := by cases c <;> rfl

@[simp] theorem State.advance_mem : (s.advance).mem = s.mem := by unfold State.advance; split <;> rfl
@[simp] theorem State.advance_v : (s.advance).v = s.v := by unfold State.advance; split <;> rfl
@[simp] theorem State.advance_i : (s.advance).i = s.i := by unfold State.advance; split <;> rfl
@[simp] theorem State.advance_pc : (s.advance).pc = if s.faulted = none ∧ s.waiting = none ∧ s.didJump = false then s.pc + 2 else s.pc := by unfold State.advance; split <;> rfl
@[simp] theorem State.advance_stack : (s.advance).stack = s.stack := by unfold State.advance; split <;> rfl
@[simp] theorem State.advance_dt : (s.advance).dt = s.dt := by unfold State.advance; split <;> rfl
@[simp] theorem State.advance_st : (s.advance).st = s.st := by unfold State.advance; split <;> rfl
@[simp] theorem State.advance_fb : (s.advance).fb = s.fb := by unfold State.advance; split <;> rfl
@[simp] theorem State.advance_dirty : (s.advance).dirty = s.dirty := by unfold State.advance; split <;> rfl
@[simp] theorem State.advance_didJump : (s.advance).didJump = false := rfl
@[simp] theorem State.advance_waiting : (s.advance).waiting = s.waiting := by unfold State.advance; split <;> rfl
@[simp] theorem State.advance_faulted : (s.advance).faulted = s.faulted := by unfold State.advance; split <;> rfl
@[simp] theorem State.advance_cfg : (s.advance).cfg = s.cfg := by unfold State.advance; split <;> rfl
@[simp] theorem State.advance_draws : (s.advance).draws = s.draws := by unfold State.advance; split <;> rfl
@[simp] theorem State.advance_host : (s.advance).host = s.host := by unfold State.advance; split <;> rfl

@[simp] theorem State.writeBytes_v (a : Nat) (l : List Byte) : (s.writeBytes a l).v = s.v := by
  induction l generalizing s a with
  | nil => rfl
  | cons b l ih => exact ih _ _
@[simp] theorem State.writeBytes_i (a : Nat) (l : List Byte) : (s.writeBytes a l).i = s.i := by
  induction l generalizing s a with
  | nil => rfl
  | cons b l ih => exact ih _ _
@[simp] theorem State.writeBytes_pc (a : Nat) (l : List Byte) : (s.writeBytes a l).pc = s.pc := by
  induction l generalizing s a with
  | nil => rfl
  | cons b l ih => exact ih _ _
@[simp] theorem State.writeBytes_stack (a : Nat) (l : List Byte) : (s.writeBytes a l).stack = s.stack := by
  induction l generalizing s a with
  | nil => rfl
  | cons b l ih => exact ih _ _
@[simp] theorem State.writeBytes_dt (a : Nat) (l : List Byte) : (s.writeBytes a l).dt = s.dt := by
  induction l generalizing s a with
  | nil => rfl
  | cons b l ih => exact ih _ _
@[simp] theorem State.writeBytes_st (a : Nat) (l : List Byte) : (s.writeBytes a l).st = s.st := by
  induction l generalizing s a with
  | nil => rfl
  | cons b l ih => exact ih _ _
@[simp] theorem State.writeBytes_fb (a : Nat) (l : List Byte) : (s.writeBytes a l).fb = s.fb := by
  induction l generalizing s a with
  | nil => rfl
  | cons b l ih => exact ih _ _
@[simp] theorem State.writeBytes_dirty (a : Nat) (l : List Byte) : (s.writeBytes a l).dirty = s.dirty := by
  induction l generalizing s a with
  | nil => rfl
  | cons b l ih => exact ih _ _
@[simp] theorem State.writeBytes_didJump (a : Nat) (l : List Byte) : (s.writeBytes a l).didJump = s.didJump := by
  induction l generalizing s a with
  | nil => rfl
  | cons b l ih => exact ih _ _
@[simp] theorem State.writeBytes_waiting (a : Nat) (l : List Byte) : (s.writeBytes a l).waiting = s.waiting := by
  induction l generalizing s a with
  | nil => rfl
  | cons b l ih => exact ih _ _
@[simp] theorem State.writeBytes_faulted (a : Nat) (l : List Byte) : (s.writeBytes a l).faulted = s.faulted := by
  induction l generalizing s a with
  | nil => rfl
  | cons b l ih => exact ih _ _
@[simp] theorem State.writeBytes_cfg (a : Nat) (l : List Byte) : (s.writeBytes a l).cfg = s.cfg := by
  induction l generalizing s a with
  | nil => rfl
  | cons b l ih => exact ih _ _
@[simp] theorem State.writeBytes_draws (a : Nat) (l : List Byte) : (s.writeBytes a l).draws = s.draws := by
  induction l generalizing s a with
  | nil => rfl
  | cons b l ih => exact ih _ _
@[simp] theorem State.writeBytes_host (a : Nat) (l : List Byte) : (s.writeBytes a l).host = s.host := by
  induction l generalizing s a with
  | nil => rfl
  | cons b l ih => exact ih _ _

end Sys2Proof.Machine
end

