-- ==== Sys2Proof/Laws/Memory.lean ====
section
/-! SUPPORT. Memory: a read after a write, what a write leaves alone, and that every operation keeps the canonical
form (20_memory.md R39). -/

namespace Sys2Proof.Machine

/-! ## The list of cells -/

theorem Memory.lookup_insert (m : Memory) (a : Nat) (b : Byte) (c : Nat) :
    (Memory.insert m a b).lookup c = if a = c then some b else m.lookup c := by
  induction m with
  | nil => rfl
  | cons e m ih =>
    obtain ⟨k, d⟩ := e
    simp only [Memory.insert]
    split
    · rfl
    · split
      · rename_i h
        subst h
        simp only [Memory.lookup]
        split <;> rfl
      · rename_i h
        simp only [Memory.lookup, ih]
        split <;> split <;> first | rfl | omega

theorem Memory.lookup_erase (m : Memory) (a c : Nat) :
    (Memory.erase m a).lookup c = if a = c then none else m.lookup c := by
  induction m with
  | nil => simp [Memory.erase, Memory.lookup]
  | cons e m ih =>
    obtain ⟨k, d⟩ := e
    unfold Memory.erase at ih ⊢
    by_cases hk : k = a
    · subst hk
      rw [List.filter_cons_of_neg (by simp), ih]
      simp only [Memory.lookup]
      split <;> rfl
    · rw [List.filter_cons_of_pos (by simpa using hk)]
      simp only [Memory.lookup, ih]
      split <;> split <;> first | rfl | omega

theorem Memory.mem_insert (m : Memory) (a : Nat) (b : Byte) (e : Host.Cell) :
    e ∈ Memory.insert m a b → e = (a, b) ∨ e ∈ m := by
  induction m with
  | nil => simp [Memory.insert]
  | cons f m ih =>
    obtain ⟨k, d⟩ := f
    simp only [Memory.insert]
    split
    · simp
    · split
      · simp only [List.mem_cons]
        rintro (h | h)
        · exact .inl h
        · exact .inr (.inr h)
      · simp only [List.mem_cons]
        rintro (h | h)
        · exact .inr (.inl h)
        · exact (ih h).imp_right .inr

theorem Memory.insert_sorted (m : Memory) (a : Nat) (b : Byte)
    (h : m.Pairwise (fun c e => c.1 < e.1)) : (Memory.insert m a b).Pairwise (fun c e => c.1 < e.1) := by
  induction m with
  | nil => simp [Memory.insert]
  | cons f m ih =>
    obtain ⟨k, d⟩ := f
    rw [List.pairwise_cons] at h
    simp only [Memory.insert]
    split
    · rename_i hlt
      refine List.pairwise_cons.2 ⟨?_, List.pairwise_cons.2 h⟩
      intro e he
      rcases List.mem_cons.1 he with rfl | he
      · exact hlt
      · exact Nat.lt_trans hlt (h.1 e he)
    · split
      · rename_i hk
        subst hk
        exact List.pairwise_cons.2 h
      · refine List.pairwise_cons.2 ⟨?_, ih h.2⟩
        intro e he
        rcases Memory.mem_insert m a b e he with rfl | he
        · show k < a
          omega
        · exact h.1 e he

theorem Memory.wf_insert {d : Nat → Byte} {m : Memory} (h : Memory.wf d m) {a : Nat} {b : Byte} (ha : a < memSize)
    (hb : b ≠ d a) : Memory.wf d (Memory.insert m a b) := by
  refine ⟨Memory.insert_sorted m a b h.1, fun e he => ?_⟩
  rcases Memory.mem_insert m a b e he with rfl | he
  · exact ⟨ha, hb⟩
  · exact h.2 e he

theorem Memory.wf_erase {d : Nat → Byte} {m : Memory} (h : Memory.wf d m) (a : Nat) :
    Memory.wf d (Memory.erase m a) :=
  ⟨h.1.filter _, fun e he => h.2 e (List.mem_of_mem_filter he)⟩

/-! ## Bytes of a state -/

variable (s : State)

/-- Memory is read through `mem` and `cfg` alone. -/
theorem State.readByte_congr {s t : State} (hm : t.mem = s.mem) (hc : t.cfg = s.cfg) (a : Nat) :
    t.readByte a = s.readByte a := by
  unfold State.readByte
  rw [hm, hc]

/-- A read returns the last byte written there, and a write changes only its own byte (R39). -/
theorem State.readByte_writeByte (a : Nat) (b : Byte) (c : Nat) :
    (s.writeByte a b).readByte c = if a = c then b else s.readByte c := by
  unfold State.readByte State.writeByte
  simp only [State.setMem_mem, State.setMem_cfg]
  split
  · rename_i h
    rw [Memory.lookup_erase]
    split
    · rename_i h'
      subst h'
      exact h.symm
    · rfl
  · rw [Memory.lookup_insert]
    split <;> rfl

/-- A write in range keeps the canonical form. -/
theorem State.writeByte_memWf {s : State} (h : s.memWf) {a : Nat} (ha : a < memSize) (b : Byte) :
    (s.writeByte a b).memWf := by
  unfold State.memWf State.writeByte
  simp only [State.setMem_mem, State.setMem_cfg]
  split
  · exact Memory.wf_erase h a
  · rename_i hb
    exact Memory.wf_insert h ha hb

/-- Consecutive writes: the bytes land at a, a + 1, ...; every other byte stays. -/
theorem State.readByte_writeBytes (a : Nat) (l : List Byte) (c : Nat) :
    (s.writeBytes a l).readByte c =
      if h : a ≤ c ∧ c < a + l.length then l[c - a]'(by omega) else s.readByte c := by
  induction l generalizing s a with
  | nil =>
    rw [dif_neg (by simp only [List.length_nil]; omega)]
    rfl
  | cons b l ih =>
    show ((s.writeByte a b).writeBytes (a + 1) l).readByte c = _
    rw [ih, State.readByte_writeByte]
    by_cases h1 : a = c
    · subst h1
      rw [dif_neg (by omega), if_pos rfl, dif_pos (by simp only [List.length_cons]; omega)]
      simp
    · by_cases h2 : a + 1 ≤ c ∧ c < a + 1 + l.length
      · rw [dif_pos h2, dif_pos (by simp only [List.length_cons]; omega)]
        obtain ⟨k, rfl⟩ : ∃ k, c = a + 1 + k := ⟨c - (a + 1), by omega⟩
        have e1 : a + 1 + k - a = k + 1 := by omega
        have e2 : a + 1 + k - (a + 1) = k := by omega
        simp only [e1, e2, List.getElem_cons_succ]
      · rw [dif_neg h2, if_neg h1, dif_neg (by simp only [List.length_cons]; omega)]

/-- Consecutive writes in range keep the canonical form. -/
theorem State.writeBytes_memWf {s : State} (h : s.memWf) {a : Nat} {l : List Byte} (ha : a + l.length ≤ memSize) :
    (s.writeBytes a l).memWf := by
  induction l generalizing s a with
  | nil => exact h
  | cons b l ih =>
    simp only [List.length_cons] at ha
    exact ih (State.writeByte_memWf h (by omega) b) (by omega)

theorem State.readBytes_length (a n : Nat) : (s.readBytes a n).length = n := by
  induction n generalizing a with
  | zero => rfl
  | succ n ih => simp [State.readBytes, ih]

/-- The k-th byte of a read of consecutive bytes. -/
theorem State.readBytes_getElem (a n k : Nat) (h : k < (s.readBytes a n).length) :
    (s.readBytes a n)[k] = s.readByte (a + k) := by
  induction n generalizing a k with
  | zero => simp [State.readBytes] at h
  | succ n ih =>
    cases k with
    | zero => simp [State.readBytes]
    | succ k =>
      simp only [State.readBytes, List.getElem_cons_succ]
      rw [ih]
      congr 1
      omega

/-- Reset memory: the font, and zeros elsewhere. -/
theorem State.create_readByte (cfg : Config) (a : Nat) : (State.create cfg).readByte a = resetByte cfg a := rfl

theorem State.create_memWf (cfg : Config) : (State.create cfg).memWf := by
  refine ⟨?_, ?_⟩ <;> simp [State.create]

end Sys2Proof.Machine
end

