-- ==== Sys2Proof/Laws/Ops.lean ====
section
/-! SUPPORT. One lemma a shared operation that says everything it can do. -/

namespace Sys2Proof.Machine

variable (s : State)

/-! ## Registers -/

/-- A register write changes the register and no other (R13). -/
@[simp] theorem State.reg_setReg (r q : Reg) (b : Byte) : (s.setReg r b).reg q = if r = q then b else s.reg q := by
  show (s.v.set r.val b r.isLt)[q.val] = _
  rw [Vector.getElem_set]
  simp only [Fin.ext_iff]
  rfl

/-- The flag is written last: VF holds it even when it is the destination (R97). -/
@[simp] theorem State.reg_setRegFlag (x q : Reg) (a b : Byte) :
    (s.setRegFlag x a b).reg q = if q = regVF then b else if x = q then a else s.reg q := by
  unfold State.setRegFlag
  rw [State.reg_setReg, State.reg_setReg]
  simp only [eq_comm]

theorem State.reg_congr {s t : State} (h : t.v = s.v) (r : Reg) : t.reg r = s.reg r := by
  unfold State.reg
  rw [h]

@[simp] theorem State.reg_setMem (m : Memory) (r : Reg) : (s.setMem m).reg r = s.reg r := rfl
@[simp] theorem State.reg_setI (w : Word) (r : Reg) : (s.setI w).reg r = s.reg r := rfl
@[simp] theorem State.reg_setPc (w : Word) (r : Reg) : (s.setPc w).reg r = s.reg r := rfl
@[simp] theorem State.reg_setStack (l : List Word) (r : Reg) : (s.setStack l).reg r = s.reg r := rfl
@[simp] theorem State.reg_setDt (b : Byte) (r : Reg) : (s.setDt b).reg r = s.reg r := rfl
@[simp] theorem State.reg_setSt (b : Byte) (r : Reg) : (s.setSt b).reg r = s.reg r := rfl
@[simp] theorem State.reg_setFb (f : Framebuffer) (r : Reg) : (s.setFb f).reg r = s.reg r := rfl
@[simp] theorem State.reg_setDirty (b : Bool) (r : Reg) : (s.setDirty b).reg r = s.reg r := rfl
@[simp] theorem State.reg_setDidJump (b : Bool) (r : Reg) : (s.setDidJump b).reg r = s.reg r := rfl
@[simp] theorem State.reg_setWaiting (w : Option Reg) (r : Reg) : (s.setWaiting w).reg r = s.reg r := rfl
@[simp] theorem State.reg_setFaulted (e : Option Fault) (r : Reg) : (s.setFaulted e).reg r = s.reg r := rfl
@[simp] theorem State.reg_setDraws (n : Nat) (r : Reg) : (s.setDraws n).reg r = s.reg r := rfl
@[simp] theorem State.reg_setHost (h : HostPort) (r : Reg) : (s.setHost h).reg r = s.reg r := rfl

theorem State.setI_self {s : State} {w : Word} (h : w = s.i) : s.setI w = s := by
  subst h
  rfl

/-! ## Checks and errors -/

theorem checkRange_eq_none_iff (a n : Nat) : checkRange a n = none ↔ n = 0 ∨ a + n ≤ 0x1000 := by
  unfold checkRange memSize
  split <;> simp_all

/-- The address reported is the first one above 0xFFF (R38). -/
theorem checkRange_eq_some_iff (a n b : Nat) :
    checkRange a n = some b ↔ n ≠ 0 ∧ 0x1000 < a + n ∧ b = max a 0x1000 := by
  unfold checkRange memSize
  split
  · simp only [reduceCtorEq, false_iff]
    omega
  · simp only [Option.some.injEq]
    omega

/-- `Check` and then the effect: the effect, or the error and nothing else (R38, R82). -/
theorem State.checked_cases (a n : Nat) (f : State → State) :
    ((n = 0 ∨ a + n ≤ 0x1000) ∧ s.checked a n f = f s) ∨
      (n ≠ 0 ∧ 0x1000 < a + n ∧ s.checked a n f = s.raise (.memOutOfBounds (max a 0x1000))) := by
  unfold State.checked
  cases h : checkRange a n with
  | none => exact .inl ⟨(checkRange_eq_none_iff a n).1 h, rfl⟩
  | some b =>
    obtain ⟨h1, h2, rfl⟩ := (checkRange_eq_some_iff a n b).1 h
    exact .inr ⟨h1, h2, rfl⟩

theorem State.checked_of_fits {a n : Nat} (h : n = 0 ∨ a + n ≤ 0x1000) (f : State → State) :
    s.checked a n f = f s := by
  unfold State.checked
  rw [(checkRange_eq_none_iff a n).2 h]

theorem State.checked_of_past {a n : Nat} (hn : n ≠ 0) (h : 0x1000 < a + n) (f : State → State) :
    s.checked a n f = s.raise (.memOutOfBounds (max a 0x1000)) := by
  unfold State.checked
  rw [(checkRange_eq_some_iff a n _).2 ⟨hn, h, rfl⟩]

/-! ## Timers -/

/-- One less, floor 0 (R77). -/
theorem tickByte_toNat (b : Byte) : (tickByte b).toNat = b.toNat - 1 := by
  unfold tickByte
  split
  · rename_i h
    subst h
    rfl
  · rename_i h
    have h0 : b.toNat ≠ 0 := fun h' => h (BitVec.eq_of_toNat_eq h')
    have := b.isLt
    rw [BitVec.toNat_sub]
    show (2 ^ 8 - 1 + b.toNat) % 2 ^ 8 = _
    omega

/-! ## Frames -/

namespace State.SameExcept

variable {s t u : State} {w w' : List Part}

theorem refl (w : List Part) (s : State) : SameExcept w s s := by
  constructor <;> intros <;> rfl

theorem mono (h : SameExcept w s t) (hw : ∀ p ∈ w, p ∈ w') : SameExcept w' s t where
  byte a ha := h.byte a fun h' => ha (hw _ h')
  reg r hr := h.reg r fun h' => hr (hw _ h')
  index hp := h.index fun h' => hp (hw _ h')
  pc hp := h.pc fun h' => hp (hw _ h')
  stack hp := h.stack fun h' => hp (hw _ h')
  dt hp := h.dt fun h' => hp (hw _ h')
  st hp := h.st fun h' => hp (hw _ h')
  row r hr := h.row r fun h' => hr (hw _ h')
  dirty hp := h.dirty fun h' => hp (hw _ h')
  didJump hp := h.didJump fun h' => hp (hw _ h')
  waiting hp := h.waiting fun h' => hp (hw _ h')
  faulted hp := h.faulted fun h' => hp (hw _ h')
  cfg hp := h.cfg fun h' => hp (hw _ h')
  draws hp := h.draws fun h' => hp (hw _ h')
  host hp := h.host fun h' => hp (hw _ h')

theorem trans (h : SameExcept w s t) (h' : SameExcept w t u) : SameExcept w s u where
  byte a ha := (h'.byte a ha).trans (h.byte a ha)
  reg r hr := (h'.reg r hr).trans (h.reg r hr)
  index hp := (h'.index hp).trans (h.index hp)
  pc hp := (h'.pc hp).trans (h.pc hp)
  stack hp := (h'.stack hp).trans (h.stack hp)
  dt hp := (h'.dt hp).trans (h.dt hp)
  st hp := (h'.st hp).trans (h.st hp)
  row r hr := (h'.row r hr).trans (h.row r hr)
  dirty hp := (h'.dirty hp).trans (h.dirty hp)
  didJump hp := (h'.didJump hp).trans (h.didJump hp)
  waiting hp := (h'.waiting hp).trans (h.waiting hp)
  faulted hp := (h'.faulted hp).trans (h.faulted hp)
  cfg hp := (h'.cfg hp).trans (h.cfg hp)
  draws hp := (h'.draws hp).trans (h.draws hp)
  host hp := (h'.host hp).trans (h.host hp)

end State.SameExcept

theorem State.sameExcept_setReg (r : Reg) (b : Byte) : State.SameExcept [.reg r] s (s.setReg r b) := by
  constructor <;> intros <;> try rfl
  rename_i q hq
  rw [State.reg_setReg, if_neg]
  rintro rfl
  simp at hq

theorem State.sameExcept_setRegFlag (x : Reg) (a b : Byte) :
    State.SameExcept [.reg x, .reg regVF] s (s.setRegFlag x a b) :=
  ((s.sameExcept_setReg x a).mono (by simp)).trans (((s.setReg x a).sameExcept_setReg regVF b).mono (by simp))

theorem State.sameExcept_setI (w : Word) : State.SameExcept [.index] s (s.setI w) := by
  constructor <;> intros <;> first | rfl | simp_all

theorem State.sameExcept_setPc (w : Word) : State.SameExcept [.pc] s (s.setPc w) := by
  constructor <;> intros <;> first | rfl | simp_all

theorem State.sameExcept_setStack (l : List Word) : State.SameExcept [.stack] s (s.setStack l) := by
  constructor <;> intros <;> first | rfl | simp_all

theorem State.sameExcept_setDt (b : Byte) : State.SameExcept [.dt] s (s.setDt b) := by
  constructor <;> intros <;> first | rfl | simp_all

theorem State.sameExcept_setSt (b : Byte) : State.SameExcept [.st] s (s.setSt b) := by
  constructor <;> intros <;> first | rfl | simp_all

theorem State.sameExcept_setDirty (b : Bool) : State.SameExcept [.dirty] s (s.setDirty b) := by
  constructor <;> intros <;> first | rfl | simp_all

theorem State.sameExcept_setDidJump (b : Bool) : State.SameExcept [.didJump] s (s.setDidJump b) := by
  constructor <;> intros <;> first | rfl | simp_all

theorem State.sameExcept_setWaiting (x : Option Reg) : State.SameExcept [.waiting] s (s.setWaiting x) := by
  constructor <;> intros <;> first | rfl | simp_all

theorem State.sameExcept_setDraws (n : Nat) : State.SameExcept [.draws] s (s.setDraws n) := by
  constructor <;> intros <;> first | rfl | simp_all

theorem State.sameExcept_setHost (h : HostPort) : State.SameExcept [.host] s (s.setHost h) := by
  constructor <;> intros <;> first | rfl | simp_all

theorem State.sameExcept_raise (e : Fault) : State.SameExcept [.faulted] s (s.raise e) := by
  constructor <;> intros <;> first | rfl | simp_all

theorem State.sameExcept_setFb (f : Framebuffer) : State.SameExcept allRows s (s.setFb f) := by
  constructor <;> intros <;> try rfl
  rename_i r hr
  exact absurd (List.mem_map.2 ⟨r, List.mem_finRange r, rfl⟩) hr

/-- New general registers that agree with the old ones but for those listed. -/
theorem State.sameExcept_setV {w : List Part} (v : Vector Byte 16)
    (h : ∀ r : Reg, Part.reg r ∉ w → v[r] = s.reg r) : State.SameExcept w s (s.setV v) := by
  constructor
  case reg => exact h
  all_goals intros; rfl

theorem State.sameExcept_skipIf (c : Bool) : State.SameExcept [.pc] s (s.skipIf c) := by
  cases c
  · exact State.SameExcept.refl _ _
  · exact s.sameExcept_setPc _

theorem State.sameExcept_jump (w : Word) : State.SameExcept [.pc, .didJump] s (s.jump w) :=
  ((s.sameExcept_setPc w).mono (by simp)).trans (((s.setPc w).sameExcept_setDidJump true).mono (by simp))

theorem State.sameExcept_writeBytes (a : Nat) (l : List Byte) :
    State.SameExcept (bytesFrom a l.length) s (s.writeBytes a l) := by
  constructor
  case byte =>
    intro c hc
    rw [State.readByte_writeBytes, dif_neg]
    rintro ⟨h1, h2⟩
    exact hc (List.mem_map.2 ⟨c - a, List.mem_range.2 (by omega), by rw [Nat.add_sub_cancel' h1]⟩)
  all_goals intros; simp [State.reg]

end Sys2Proof.Machine
end

