-- ==== Sys2Proof/Laws/Operands.lean ====
section
/-! SUPPORT. What the operand forms and the flags are as numbers (30_encoding.md R54; 42_alu.md R96). -/

namespace Sys2Proof.Machine

variable (s : State)

theorem addrWord_toNat (nnn : Addr) : (addrWord nnn).toNat = nnn.toNat := by
  have := nnn.isLt
  unfold addrWord
  rw [BitVec.toNat_setWidth]
  omega

/-- The sum of Bnnn fits the pc (R95). -/
theorem State.offsetTarget_toNat (nnn : Addr) :
    (s.offsetTarget nnn).toNat = nnn.toNat + (s.reg (offsetReg s.cfg nnn)).toNat := by
  have := nnn.isLt
  have := (s.reg (offsetReg s.cfg nnn)).isLt
  unfold State.offsetTarget
  rw [BitVec.toNat_ofNat]
  omega

theorem offsetReg_val (cfg : Config) (nnn : Addr) (h : cfg.jumpUsesVx = true) :
    (offsetReg cfg nnn).val = nnn.toNat / 256 := by
  have := nnn.isLt
  unfold offsetReg
  rw [if_pos h]
  show (nnn.extractLsb' 8 4).toNat = _
  rw [BitVec.extractLsb'_toNat, Nat.shiftRight_eq_div_pow]
  omega

/-- A glyph address does not wrap for a FONT_BASE within the limit of R21 (R127). -/
theorem glyphAddr_toNat (cfg : Config) (b : Byte) (h : cfg.wf = true) :
    (glyphAddr cfg b).toNat = cfg.fontBase.toNat + 5 * b.toNat := by
  have := b.isLt
  simp only [Config.wf, Bool.and_eq_true, decide_eq_true_eq] at h
  unfold glyphAddr
  rw [BitVec.toNat_ofNat]
  omega

theorem State.blockBytes_length (x : Reg) : (s.blockBytes x).length = blockLen x := by
  have := x.isLt
  simp only [State.blockBytes, blockLen, List.length_take, Vector.length_toList]
  omega

theorem State.blockBytes_getElem (x k : Reg) (h : k.val < (s.blockBytes x).length) :
    (s.blockBytes x)[k.val] = s.reg k := by
  simp [State.blockBytes, State.reg]

theorem State.blockLoaded_getElem (x k : Reg) :
    (s.blockLoaded x)[k] = if k ≤ x then s.readByte (s.i.toNat + k.val) else s.reg k := by
  simp [State.blockLoaded]

theorem bcdDigits_length (b : Byte) : (bcdDigits b).length = 3 := rfl

/-- Bytes that name a key are those below 16 (R119). -/
theorem keyOf_eq_some_iff (b : Byte) (k : Key) : keyOf b = some k ↔ b.toNat = k.val := by
  unfold keyOf
  split
  · simp [Fin.ext_iff]
  · have := k.isLt
    simp only [reduceCtorEq, false_iff]
    omega

theorem keyOf_eq_none_iff (b : Byte) : keyOf b = none ↔ 15 < b.toNat := by
  unfold keyOf
  split
  · simp only [reduceCtorEq, false_iff]
    omega
  · simp only [true_iff]
    omega

theorem shiftedOutRight_toNat (a : Byte) : (shiftedOutRight a).toNat = a.toNat % 2 := by
  unfold shiftedOutRight
  rw [BitVec.toNat_and]
  exact Nat.and_one_is_mod _

theorem shiftedOutLeft_toNat (a : Byte) : (shiftedOutLeft a).toNat = a.toNat / 128 := by
  unfold shiftedOutLeft
  rw [BitVec.toNat_ushiftRight, Nat.shiftRight_eq_div_pow]

end Sys2Proof.Machine
end

