-- ==== Sys2Proof/Machine/Assembly.lean ====
section
/-! DEFINITION. The spec's assembler syntax as notation for words (30_encoding.md R68, R69; the spec's D25, log 31). The
core reads words and never text, so no meaning uses this file. -/

namespace Sys2Proof

/-- A line of the syntax of R68: its forms, the two short forms of the shifts, and the notations NOP and DW (R69). -/
inductive AsmLine where
  /-- `CLS` is 00E0. -/
  | cls
  /-- `RET` is 00EE. -/
  | ret
  /-- `JP nnn` is 1nnn. -/
  | jp (nnn : Addr)
  /-- `CALL nnn` is 2nnn. -/
  | call (nnn : Addr)
  /-- `SE Vx, nn` is 3xnn. -/
  | seImm (x : Reg) (nn : Byte)
  /-- `SNE Vx, nn` is 4xnn. -/
  | sneImm (x : Reg) (nn : Byte)
  /-- `SE Vx, Vy` is 5xy0. -/
  | seReg (x : Reg) (y : Reg)
  /-- `LD Vx, nn` is 6xnn. -/
  | ldImm (x : Reg) (nn : Byte)
  /-- `ADD Vx, nn` is 7xnn. -/
  | addImm (x : Reg) (nn : Byte)
  /-- `LD Vx, Vy` is 8xy0. -/
  | ldReg (x : Reg) (y : Reg)
  /-- `OR Vx, Vy` is 8xy1. -/
  | orReg (x : Reg) (y : Reg)
  /-- `AND Vx, Vy` is 8xy2. -/
  | andReg (x : Reg) (y : Reg)
  /-- `XOR Vx, Vy` is 8xy3. -/
  | xorReg (x : Reg) (y : Reg)
  /-- `ADD Vx, Vy` is 8xy4. -/
  | addReg (x : Reg) (y : Reg)
  /-- `SUB Vx, Vy` is 8xy5. -/
  | subReg (x : Reg) (y : Reg)
  /-- `SHR Vx, Vy` is 8xy6. -/
  | shr (x : Reg) (y : Reg)
  /-- `SHR Vx` is 8x06. -/
  | shrShort (x : Reg)
  /-- `SUBN Vx, Vy` is 8xy7. -/
  | subn (x : Reg) (y : Reg)
  /-- `SHL Vx, Vy` is 8xyE. -/
  | shl (x : Reg) (y : Reg)
  /-- `SHL Vx` is 8x0E. -/
  | shlShort (x : Reg)
  /-- `SNE Vx, Vy` is 9xy0. -/
  | sneReg (x : Reg) (y : Reg)
  /-- `LD I, nnn` is Annn. -/
  | ldI (nnn : Addr)
  /-- `JP V0, nnn` is Bnnn. -/
  | jpV0 (nnn : Addr)
  /-- `RND Vx, nn` is Cxnn. -/
  | rnd (x : Reg) (nn : Byte)
  /-- `DRW Vx, Vy, n` is Dxyn. -/
  | drw (x : Reg) (y : Reg) (n : Nibble)
  /-- `SKP Vx` is Ex9E. -/
  | skp (x : Reg)
  /-- `SKNP Vx` is ExA1. -/
  | sknp (x : Reg)
  /-- `LD Vx, DT` is Fx07. -/
  | ldVxDt (x : Reg)
  /-- `LD Vx, K` is Fx0A. -/
  | ldVxK (x : Reg)
  /-- `LD DT, Vx` is Fx15. -/
  | ldDtVx (x : Reg)
  /-- `LD ST, Vx` is Fx18. -/
  | ldStVx (x : Reg)
  /-- `ADD I, Vx` is Fx1E. -/
  | addI (x : Reg)
  /-- `LD F, Vx` is Fx29. -/
  | ldF (x : Reg)
  /-- `LD B, Vx` is Fx33. -/
  | ldB (x : Reg)
  /-- `LD [I], Vx` is Fx55. -/
  | storeRegs (x : Reg)
  /-- `LD Vx, [I]` is Fx65. -/
  | loadRegs (x : Reg)
  /-- `NOP` is 0000. -/
  | nop
  /-- `DW 0xhhhh` is the word hhhh. -/
  | dw (w : Word)
deriving DecidableEq, Repr

/-- The word a line encodes as. A shift without its second register has y = 0, and a register skip has n = 0 (R68). Bnnn
has one encoding, whatever JUMP_USES_VX is: no configuration is an argument. -/
def AsmLine.word : AsmLine → Word
  | .cls => encode .cls
  | .ret => encode .ret
  | .jp nnn => encode (.jp nnn)
  | .call nnn => encode (.call nnn)
  | .seImm x nn => encode (.seImm x nn)
  | .sneImm x nn => encode (.sneImm x nn)
  | .seReg x y => encode (.seReg x y 0)
  | .ldImm x nn => encode (.ldImm x nn)
  | .addImm x nn => encode (.addImm x nn)
  | .ldReg x y => encode (.ldReg x y)
  | .orReg x y => encode (.orReg x y)
  | .andReg x y => encode (.andReg x y)
  | .xorReg x y => encode (.xorReg x y)
  | .addReg x y => encode (.addReg x y)
  | .subReg x y => encode (.subReg x y)
  | .shr x y => encode (.shr x y)
  | .shrShort x => encode (.shr x 0)
  | .subn x y => encode (.subn x y)
  | .shl x y => encode (.shl x y)
  | .shlShort x => encode (.shl x 0)
  | .sneReg x y => encode (.sneReg x y 0)
  | .ldI nnn => encode (.ldI nnn)
  | .jpV0 nnn => encode (.jpV0 nnn)
  | .rnd x nn => encode (.rnd x nn)
  | .drw x y n => encode (.drw x y n)
  | .skp x => encode (.skp x)
  | .sknp x => encode (.sknp x)
  | .ldVxDt x => encode (.ldVxDt x)
  | .ldVxK x => encode (.ldVxK x)
  | .ldDtVx x => encode (.ldDtVx x)
  | .ldStVx x => encode (.ldStVx x)
  | .addI x => encode (.addI x)
  | .ldF x => encode (.ldF x)
  | .ldB x => encode (.ldB x)
  | .storeRegs x => encode (.storeRegs x)
  | .loadRegs x => encode (.loadRegs x)
  | .nop => 0x0000#16
  | .dw w => w

/-- The line of an instruction: its form where R68 has one, and DW of its word for an unrecognized word and for a register
skip whose ignored n is not 0, which the assembler does not write (R68). -/
def Instr.line : Instr → AsmLine
  | .cls => .cls
  | .ret => .ret
  | .jp nnn => .jp nnn
  | .call nnn => .call nnn
  | .seImm x nn => .seImm x nn
  | .sneImm x nn => .sneImm x nn
  | .seReg x y n => if n = 0 then .seReg x y else .dw (encode (.seReg x y n))
  | .ldImm x nn => .ldImm x nn
  | .addImm x nn => .addImm x nn
  | .ldReg x y => .ldReg x y
  | .orReg x y => .orReg x y
  | .andReg x y => .andReg x y
  | .xorReg x y => .xorReg x y
  | .addReg x y => .addReg x y
  | .subReg x y => .subReg x y
  | .shr x y => .shr x y
  | .subn x y => .subn x y
  | .shl x y => .shl x y
  | .sneReg x y n => if n = 0 then .sneReg x y else .dw (encode (.sneReg x y n))
  | .ldI nnn => .ldI nnn
  | .jpV0 nnn => .jpV0 nnn
  | .rnd x nn => .rnd x nn
  | .drw x y n => .drw x y n
  | .skp x => .skp x
  | .sknp x => .sknp x
  | .ldVxDt x => .ldVxDt x
  | .ldVxK x => .ldVxK x
  | .ldDtVx x => .ldDtVx x
  | .ldStVx x => .ldStVx x
  | .addI x => .addI x
  | .ldF x => .ldF x
  | .ldB x => .ldB x
  | .storeRegs x => .storeRegs x
  | .loadRegs x => .loadRegs x
  | .nop0 nnn => .dw (encode (.nop0 nnn))
  | .nop8 x y n => .dw (encode (.nop8 x y n))
  | .nopE x nn => .dw (encode (.nopE x nn))
  | .nopF x nn => .dw (encode (.nopF x nn))

/-! ## The text of a line -/

/-- One hexadecimal digit. -/
def hexDigit (n : Nibble) : Char := "0123456789ABCDEF".toList.getD n.toNat '0'

/-- `V0` to `VF`. -/
def regText (r : Reg) : List Char := ['V', hexDigit (regField r)]

/-- A nibble in hexadecimal with `0x`. -/
def nibbleText (n : Nibble) : List Char := ['0', 'x', hexDigit n]

/-- A byte in hexadecimal with `0x`. -/
def byteText (nn : Byte) : List Char := ['0', 'x', hexDigit (nn.extractLsb' 4 4), hexDigit (nn.extractLsb' 0 4)]

/-- An address in hexadecimal with `0x`. -/
def addrText (a : Addr) : List Char :=
  ['0', 'x', hexDigit (a.extractLsb' 8 4), hexDigit (a.extractLsb' 4 4), hexDigit (a.extractLsb' 0 4)]

/-- A word in hexadecimal with `0x`. -/
def wordText (w : Word) : List Char :=
  ['0', 'x', hexDigit (digitOf w), hexDigit (xFieldOf w), hexDigit (yFieldOf w), hexDigit (nOf w)]

/-- A mnemonic and its operands, the destination first, parted by commas (R68). -/
def lineText (mnemonic : String) (operands : List (List Char)) : List Char :=
  match operands with
  | [] => mnemonic.toList
  | _ :: _ => mnemonic.toList ++ ' ' :: [',', ' '].intercalate operands

/-- The text of a line (R68). -/
def AsmLine.text : AsmLine → List Char
  | .cls => lineText "CLS" []
  | .ret => lineText "RET" []
  | .jp nnn => lineText "JP" [addrText nnn]
  | .call nnn => lineText "CALL" [addrText nnn]
  | .seImm x nn => lineText "SE" [regText x, byteText nn]
  | .sneImm x nn => lineText "SNE" [regText x, byteText nn]
  | .seReg x y => lineText "SE" [regText x, regText y]
  | .ldImm x nn => lineText "LD" [regText x, byteText nn]
  | .addImm x nn => lineText "ADD" [regText x, byteText nn]
  | .ldReg x y => lineText "LD" [regText x, regText y]
  | .orReg x y => lineText "OR" [regText x, regText y]
  | .andReg x y => lineText "AND" [regText x, regText y]
  | .xorReg x y => lineText "XOR" [regText x, regText y]
  | .addReg x y => lineText "ADD" [regText x, regText y]
  | .subReg x y => lineText "SUB" [regText x, regText y]
  | .shr x y => lineText "SHR" [regText x, regText y]
  | .shrShort x => lineText "SHR" [regText x]
  | .subn x y => lineText "SUBN" [regText x, regText y]
  | .shl x y => lineText "SHL" [regText x, regText y]
  | .shlShort x => lineText "SHL" [regText x]
  | .sneReg x y => lineText "SNE" [regText x, regText y]
  | .ldI nnn => lineText "LD" ["I".toList, addrText nnn]
  | .jpV0 nnn => lineText "JP" ["V0".toList, addrText nnn]
  | .rnd x nn => lineText "RND" [regText x, byteText nn]
  | .drw x y n => lineText "DRW" [regText x, regText y, nibbleText n]
  | .skp x => lineText "SKP" [regText x]
  | .sknp x => lineText "SKNP" [regText x]
  | .ldVxDt x => lineText "LD" [regText x, "DT".toList]
  | .ldVxK x => lineText "LD" [regText x, "K".toList]
  | .ldDtVx x => lineText "LD" ["DT".toList, regText x]
  | .ldStVx x => lineText "LD" ["ST".toList, regText x]
  | .addI x => lineText "ADD" ["I".toList, regText x]
  | .ldF x => lineText "LD" ["F".toList, regText x]
  | .ldB x => lineText "LD" ["B".toList, regText x]
  | .storeRegs x => lineText "LD" ["[I]".toList, regText x]
  | .loadRegs x => lineText "LD" [regText x, "[I]".toList]
  | .nop => lineText "NOP" []
  | .dw w => lineText "DW" [wordText w]

end Sys2Proof
end

