-- ==== Sys2Proof/Laws/Assembly.lean ====
section
/-! SUPPORT. What the syntax of R68 encodes as. -/

namespace Sys2Proof

/-- The line of an instruction encodes as its word (R68). -/
theorem Instr.line_word (i : Instr) : i.line.word = encode i := by
  cases i
  case seReg x y n =>
    show AsmLine.word (if n = 0 then .seReg x y else .dw (encode (.seReg x y n))) = _
    split
    · subst_vars
      rfl
    · rfl
  case sneReg x y n =>
    show AsmLine.word (if n = 0 then .sneReg x y else .dw (encode (.sneReg x y n))) = _
    split
    · subst_vars
      rfl
    · rfl
  all_goals rfl

/-- A shift written without its second register has y = 0 (R68). -/
theorem AsmLine.shrShort_word (x : Reg) : (AsmLine.shrShort x).word = (AsmLine.shr x 0).word := rfl

theorem AsmLine.shlShort_word (x : Reg) : (AsmLine.shlShort x).word = (AsmLine.shl x 0).word := rfl

/-- `JP V0, nnn` under JUMP_USES_VX adds the register of nnn's top nibble, and V0 otherwise (R68, R95). -/
theorem Machine.offsetReg_eq (cfg : Config) (nnn : Addr) :
    (Machine.offsetReg cfg nnn).val = if cfg.jumpUsesVx = true then nnn.toNat / 256 else 0 := by
  split
  · rename_i h
    exact Machine.offsetReg_val cfg nnn h
  · rename_i h
    unfold Machine.offsetReg
    rw [if_neg h]
    rfl

end Sys2Proof
end

