-- ==== Sys2Proof/Laws/Display.lean ====
section
/-! SUPPORT. What drawing one row can do to the collision flag and to the row (43_display.md R113, R116). -/

namespace Sys2Proof.Machine

/-- A row collides iff the mask meets a pixel that is on (R116). -/
theorem Canvas.xorRow_collided (c : Canvas) (r : Fin 32) (m : Row) :
    (c.xorRow r m).collided = true ↔ c.collided = true ∨ c.fb[r] &&& m ≠ 0 := by
  simp [Canvas.xorRow]

/-- "Drawing onto an all-zero region never sets the flag" (R116): a row with no pixel of the mask on. -/
theorem Canvas.xorRow_collided_of_clear {c : Canvas} {r : Fin 32} {m : Row} (h : c.fb[r] &&& m = 0) :
    (c.xorRow r m).collided = c.collided := by
  show (c.collided || (c.fb[r] &&& m) != 0#64) = c.collided
  rw [h]
  simp

/-- The row drawn, and no other, takes the mask (R113). -/
theorem Canvas.xorRow_fb (c : Canvas) (r q : Fin 32) (m : Row) :
    (c.xorRow r m).fb[q] = if r = q then c.fb[r] ^^^ m else c.fb[q] := by
  show (c.fb.set r.val (c.fb[r] ^^^ m) r.isLt)[q.val] = _
  rw [Vector.getElem_set]
  simp only [Fin.ext_iff]
  rfl

/-- The same mask twice restores the framebuffer (R117). -/
theorem Canvas.xorRow_xorRow_fb (c : Canvas) (r q : Fin 32) (m : Row) :
    ((c.xorRow r m).xorRow r m).fb[q] = c.fb[q] := by
  simp only [Canvas.xorRow_fb, if_true]
  split
  · subst_vars
    rw [BitVec.xor_assoc, BitVec.xor_self, BitVec.xor_zero]
  · rfl

/-- Where every pixel of the mask is on, the first draw turns all of them off and the second collides with none: the
flag of the second, from 0, is 0 (R116; log 28). -/
theorem Canvas.second_draw_of_all_on {c : Canvas} {r : Fin 32} {m : Row} (h : c.fb[r] &&& m = m) :
    (({ fb := (c.xorRow r m).fb, collided := false } : Canvas).xorRow r m).collided = false := by
  refine Canvas.xorRow_collided_of_clear ?_
  show (c.xorRow r m).fb[r] &&& m = 0
  rw [Canvas.xorRow_fb, if_pos rfl]
  ext k hk
  have := congrArg (·.getLsbD k) h
  simp only [BitVec.getLsbD_and] at this
  simp only [BitVec.getElem_and, BitVec.getElem_xor, BitVec.getLsbD_eq_getElem hk] at this ⊢
  revert this
  cases c.fb[r][k] <;> cases m[k] <;> simp

end Sys2Proof.Machine
end

