-- ==== Sys2Proof/Laws/Encoding.lean ====
section
/-! SUPPORT. The fields of a word put together from fields, and the words as numbers (30_encoding.md R53). -/

namespace Sys2Proof

@[simp] theorem regOf_regField (r : Reg) : regOf (regField r) = r := rfl
@[simp] theorem regField_regOf (f : Nibble) : regField (regOf f) = f := rfl

/-! ## Words as numbers -/

theorem regField_toNat (r : Reg) : (regField r).toNat = r.val := rfl

theorem append_toNat {m k : Nat} (a : BitVec m) (b : BitVec k) : (a ++ b).toNat = a.toNat * 2 ^ k + b.toNat := by
  rw [BitVec.toNat_append, Nat.shiftLeft_eq, Nat.mul_comm,
    ← Nat.two_pow_add_eq_or_of_lt b.isLt]

theorem wordOfNibbles_toNat (d x y n : Nibble) :
    (wordOfNibbles d x y n).toNat = d.toNat * 4096 + x.toNat * 256 + y.toNat * 16 + n.toNat := by
  show (d ++ x ++ y ++ n).toNat = _
  simp only [append_toNat]
  omega

theorem wordOfByteForm_toNat (d : Nibble) (x : Reg) (nn : Byte) :
    (wordOfByteForm d x nn).toNat = d.toNat * 4096 + x.val * 256 + nn.toNat := by
  show (d ++ regField x ++ nn).toNat = _
  simp only [append_toNat, regField_toNat]
  omega

theorem wordOfAddrForm_toNat (d : Nibble) (nnn : Addr) :
    (wordOfAddrForm d nnn).toNat = d.toNat * 4096 + nnn.toNat := by
  show (d ++ nnn).toNat = _
  rw [append_toNat]
  omega

theorem wordOfBytes_toNat (hi lo : Byte) : (wordOfBytes hi lo).toNat = hi.toNat * 256 + lo.toNat := by
  show (hi ++ lo).toNat = _
  rw [append_toNat]
  omega

/-! ## Fields as numbers -/

theorem digitOf_toNat (w : Word) : (digitOf w).toNat = w.toNat / 4096 := by
  have := w.isLt
  simp only [digitOf, BitVec.extractLsb'_toNat, Nat.shiftRight_eq_div_pow]
  omega

theorem xFieldOf_toNat (w : Word) : (xFieldOf w).toNat = w.toNat / 256 % 16 := by
  simp only [xFieldOf, BitVec.extractLsb'_toNat, Nat.shiftRight_eq_div_pow]

theorem yFieldOf_toNat (w : Word) : (yFieldOf w).toNat = w.toNat / 16 % 16 := by
  simp only [yFieldOf, BitVec.extractLsb'_toNat, Nat.shiftRight_eq_div_pow]

theorem nOf_toNat (w : Word) : (nOf w).toNat = w.toNat % 16 := by
  simp only [nOf, BitVec.extractLsb'_toNat, Nat.shiftRight_zero]

theorem nnOf_toNat (w : Word) : (nnOf w).toNat = w.toNat % 256 := by
  simp only [nnOf, BitVec.extractLsb'_toNat, Nat.shiftRight_zero]

theorem nnnOf_toNat (w : Word) : (nnnOf w).toNat = w.toNat % 4096 := by
  simp only [nnnOf, BitVec.extractLsb'_toNat, Nat.shiftRight_zero]

/-! ## The fields of a word made of fields -/

section nibbles
variable (d x y n : Nibble)

@[simp] theorem digitOf_wordOfNibbles : digitOf (wordOfNibbles d x y n) = d := by
  apply BitVec.eq_of_toNat_eq
  rw [digitOf_toNat, wordOfNibbles_toNat]
  omega

@[simp] theorem xFieldOf_wordOfNibbles : xFieldOf (wordOfNibbles d x y n) = x := by
  apply BitVec.eq_of_toNat_eq
  rw [xFieldOf_toNat, wordOfNibbles_toNat]
  omega

@[simp] theorem yFieldOf_wordOfNibbles : yFieldOf (wordOfNibbles d x y n) = y := by
  apply BitVec.eq_of_toNat_eq
  rw [yFieldOf_toNat, wordOfNibbles_toNat]
  omega

@[simp] theorem nOf_wordOfNibbles : nOf (wordOfNibbles d x y n) = n := by
  apply BitVec.eq_of_toNat_eq
  rw [nOf_toNat, wordOfNibbles_toNat]
  omega

end nibbles

@[simp] theorem digitOf_wordOfByteForm (d : Nibble) (x : Reg) (nn : Byte) : digitOf (wordOfByteForm d x nn) = d := by
  apply BitVec.eq_of_toNat_eq
  rw [digitOf_toNat, wordOfByteForm_toNat]
  omega

@[simp] theorem regOf_xFieldOf_wordOfByteForm (d : Nibble) (x : Reg) (nn : Byte) :
    regOf (xFieldOf (wordOfByteForm d x nn)) = x := by
  apply Fin.ext
  show (xFieldOf _).toNat = _
  rw [xFieldOf_toNat, wordOfByteForm_toNat]
  omega

@[simp] theorem nnOf_wordOfByteForm (d : Nibble) (x : Reg) (nn : Byte) : nnOf (wordOfByteForm d x nn) = nn := by
  apply BitVec.eq_of_toNat_eq
  rw [nnOf_toNat, wordOfByteForm_toNat]
  omega

@[simp] theorem digitOf_wordOfAddrForm (d : Nibble) (nnn : Addr) : digitOf (wordOfAddrForm d nnn) = d := by
  apply BitVec.eq_of_toNat_eq
  rw [digitOf_toNat, wordOfAddrForm_toNat]
  omega

@[simp] theorem nnnOf_wordOfAddrForm (d : Nibble) (nnn : Addr) : nnnOf (wordOfAddrForm d nnn) = nnn := by
  apply BitVec.eq_of_toNat_eq
  rw [nnnOf_toNat, wordOfAddrForm_toNat]
  omega

/-- A word is its four nibbles. -/
theorem wordOfNibbles_fields (w : Word) : wordOfNibbles (digitOf w) (xFieldOf w) (yFieldOf w) (nOf w) = w := by
  apply BitVec.eq_of_toNat_eq
  have := w.isLt
  rw [wordOfNibbles_toNat, digitOf_toNat, xFieldOf_toNat, yFieldOf_toNat, nOf_toNat]
  omega

/-! ## The masks of the opcode map (R63) -/

theorem getLsbD_wordOfNibbles (d x y n : Nibble) (i : Nat) :
    (wordOfNibbles d x y n).getLsbD i =
      if i < 4 then n.getLsbD i
      else if i < 8 then y.getLsbD (i - 4)
      else if i < 12 then x.getLsbD (i - 8) else d.getLsbD (i - 12) := by
  show (d ++ x ++ y ++ n).getLsbD i = _
  simp only [BitVec.getLsbD_append]
  by_cases h1 : i < 4
  · rw [if_pos h1, if_pos h1]
  · by_cases h2 : i < 8
    · rw [if_neg h1, if_pos (by omega), if_neg h1, if_pos h2]
    · rw [if_neg h1, if_neg (by omega), if_neg h1, if_neg h2, Nat.sub_sub]
      by_cases h3 : i < 12
      · rw [if_pos (by omega), if_pos h3]
      · rw [if_neg (by omega), if_neg h3, Nat.sub_sub]

theorem wordOfByteForm_eq (d : Nibble) (x : Reg) (nn : Byte) :
    wordOfByteForm d x nn = wordOfNibbles d (regField x) (nn.extractLsb' 4 4) (nn.extractLsb' 0 4) := by
  apply BitVec.eq_of_toNat_eq
  have := nn.isLt
  rw [wordOfByteForm_toNat, wordOfNibbles_toNat, regField_toNat]
  simp only [BitVec.extractLsb'_toNat, Nat.shiftRight_eq_div_pow]
  omega

/-- The mask keeps the digit. -/
theorem and_maskDigit (w : Word) : w &&& 0xF000#16 = wordOfNibbles (digitOf w) 0 0 0 := by
  apply BitVec.eq_of_getLsbD_eq
  intro i hi
  rw [getLsbD_wordOfNibbles, BitVec.getLsbD_and]
  unfold digitOf
  interval_cases i <;> simp

/-- The mask keeps the digit and n. -/
theorem and_maskDigitN (w : Word) : w &&& 0xF00F#16 = wordOfNibbles (digitOf w) 0 0 (nOf w) := by
  apply BitVec.eq_of_getLsbD_eq
  intro i hi
  rw [getLsbD_wordOfNibbles, BitVec.getLsbD_and]
  unfold digitOf nOf
  interval_cases i <;> simp

/-- The mask keeps the digit and nn. -/
theorem and_maskDigitNn (w : Word) : w &&& 0xF0FF#16 = wordOfByteForm (digitOf w) 0 (nnOf w) := by
  apply BitVec.eq_of_getLsbD_eq
  intro i hi
  rw [wordOfByteForm_eq, getLsbD_wordOfNibbles, BitVec.getLsbD_and]
  unfold digitOf nnOf regField
  interval_cases i <;> simp

end Sys2Proof
end

