-- ==== Sys2Proof/Laws/Engine.lean ====
section
/-! SUPPORT. What each move of the engine can do, said once. -/

namespace Sys2Proof.Machine

variable {s t : State}

/-! ## The cycle -/

/-- The word at a pc that can be fetched runs (R72). -/
theorem State.cycle_of_fetch (h : s.pc.toNat ≤ 0xFFE) :
    s.cycle = afterExecute (exec (decode s.fetchWord) (s.setDidJump false)) := by
  have hc : checkRange (s.setDidJump false).pc.toNat 2 = none :=
    (checkRange_eq_none_iff _ _).2 (.inr (show s.pc.toNat + 2 ≤ 0x1000 by omega))
  simp only [State.cycle, hc]
  rfl

/-- A fetch above 0xFFF is an error and nothing else (R73). -/
theorem State.cycle_of_past (h : 0xFFE < s.pc.toNat) :
    s.cycle = .next ((s.setDidJump false).raise (.memOutOfBounds (max s.pc.toNat 0x1000))) := by
  have hc : checkRange (s.setDidJump false).pc.toNat 2 = some (max s.pc.toNat 0x1000) :=
    (checkRange_eq_some_iff _ _ _).2 ⟨by decide, show 0x1000 < s.pc.toNat + 2 by omega, rfl⟩
  simp only [State.cycle, hc]

theorem State.advance_of_waits (h : s.waiting ≠ none) : s.advance = s.setDidJump false := by
  simp [State.advance, h]

theorem State.advance_of_raises (h : s.faulted ≠ none) : s.advance = s.setDidJump false := by
  simp [State.advance, h]

/-- The advance moves the pc or leaves it, and clears did_jump (R26, R75). -/
theorem State.advance_eq (h : s.faulted = none) :
    s.advance = (if s.waiting = none ∧ s.didJump = false then s.setPc (s.pc + 2) else s).setDidJump false := by
  simp [State.advance, h]

/-- The advance writes nothing but the pc and did_jump (R26, R75). -/
theorem State.sameExcept_advance (s : State) : State.SameExcept [.pc, .didJump] s s.advance := by
  have h := s.sameExcept_setPc (s.pc + 2)
  unfold State.advance
  split
  · exact (h.mono (by simp)).trans ((State.sameExcept_setDidJump _ false).mono (by simp))
  · exact (s.sameExcept_setDidJump false).mono (by simp)

/-- What follows a cycle writes nothing but the host's port (R71). -/
theorem State.sameExcept_afterCycle (n : Nat) (s : State) : State.SameExcept [.host] s (s.afterCycle n) := by
  unfold State.afterCycle
  split <;> exact s.sameExcept_setHost _

/-! ## The moves -/

/-- Between calls, with a request of the host: the core takes it up (R152). -/
theorem step_of_request {r : Request} {rest : List Request} (hl : s.host.left = none)
    (hr : s.host.requests = r :: rest) : step s = (s.setHost { s.host with requests := rest }).accept r := by
  unfold step State.move
  split
  · simp_all
  · rw [hr]

/-- Between calls, with no request: nothing happens (R85). -/
theorem step_of_idle (hl : s.host.left = none) (hr : s.host.requests = []) : step s = .next s := by
  simp [step, State.move, hl, hr]

/-- Inside a `step` call with an instruction left: a cycle (R71). -/
theorem step_of_running {n : Nat} (h : s.running n) : step s = s.runCycle n := by
  obtain ⟨hl, hf, hw⟩ := h
  simp [step, State.move, hl, hf, hw]

/-- Inside a `step` call whose instructions are used up, or that waits for a key: the tick and the return (R71, R76). -/
theorem step_of_end (hf : s.faulted = none)
    (h : s.host.left = some 0 ∨ ∃ n, s.host.left = some (n + 1) ∧ s.waiting ≠ none) :
    step s = .next s.finishStep := by
  unfold step State.move
  obtain h | ⟨n, h, hw⟩ := h
  · simp [h, hf]
  · simp [h, hf, Option.isSome_iff_ne_none.2 hw]

/-- A `step` request of a machine that is not faulted begins the call (R71). -/
theorem step_of_stepRequest {ipf : BitVec 32} {input : Input} {rest : List Request} (hl : s.host.left = none)
    (hf : s.faulted = none) (hr : s.host.requests = .step ipf input :: rest) :
    step s = .next ((s.setHost { s.host with requests := rest }).beginStep ipf input) := by
  rw [step_of_request hl hr]
  show (match s.faulted with | some e => _ | none => _) = _
  rw [hf]

/-- Every move that has a next state is one of five: nothing, a request, a cycle, or the end of a call. -/
theorem step_cases (h : step s = .next t) :
    (s.host.left = none ∧ s.host.requests = [] ∧ t = s) ∨
    (s.host.left = none ∧ ∃ r rest, s.host.requests = r :: rest ∧
      (s.setHost { s.host with requests := rest }).accept r = .next t) ∨
    (∃ n, s.running n ∧ s.runCycle n = .next t) ∨
    (s.host.left ≠ none ∧ s.faulted = none ∧ t = s.finishStep) := by
  unfold step State.move at h
  split at h
  · rename_i left hl
    split at h
    · simp at h
    · rename_i hf
      injection h with h
      exact .inr (.inr (.inr ⟨by simp [hl], hf, h.symm⟩))
    · rename_i n hf
      split at h
      · injection h with h
        exact .inr (.inr (.inr ⟨by simp [hl], hf, h.symm⟩))
      · rename_i hw
        exact .inr (.inr (.inl ⟨n, ⟨hl, hf, by simpa using hw⟩, h⟩))
  · rename_i hl
    split at h
    · rename_i hr
      injection h with h
      exact .inl ⟨hl, hr, h.symm⟩
    · rename_i r rest hr
      exact .inr (.inl ⟨hl, r, rest, hr, h⟩)

/-- A cycle that has a next state: the fetch error, or an instruction with its advance, and then the end of the call on
an error or one instruction fewer (R71 to R73). -/
theorem runCycle_cases {n : Nat} (h : s.runCycle n = .next t) :
    (0xFFE < s.pc.toNat ∧
      t = ((s.setDidJump false).raise (.memOutOfBounds (max s.pc.toNat 0x1000))).afterCycle n) ∨
    (s.pc.toNat ≤ 0xFFE ∧ ∃ u, exec (decode s.fetchWord) (s.setDidJump false) = .next u ∧
      t = u.advance.afterCycle n) := by
  unfold State.runCycle at h
  by_cases hp : s.pc.toNat ≤ 0xFFE
  · rw [State.cycle_of_fetch hp] at h
    cases hx : exec (decode s.fetchWord) (s.setDidJump false) with
    | next u =>
      rw [hx] at h
      exact .inr ⟨hp, u, rfl, (Host.Outcome.next.inj h).symm⟩
    | fault e =>
      rw [hx] at h
      cases h
    | refused r =>
      rw [hx] at h
      cases h
  · rw [State.cycle_of_past (by omega)] at h
    exact .inl ⟨by omega, (Host.Outcome.next.inj h).symm⟩

/-- did_jump is false after every cycle that has a next state (R26). -/
theorem runCycle_didJump {n : Nat} (h : s.runCycle n = .next t) : t.didJump = false := by
  have hac : ∀ u : State, (u.afterCycle n).didJump = u.didJump := by
    intro u
    unfold State.afterCycle
    split <;> rfl
  obtain ⟨-, rfl⟩ | ⟨-, u, -, rfl⟩ := runCycle_cases h
  · exact hac _
  · exact hac _

end Sys2Proof.Machine
end

