-- ==== Sys2Proof/Laws/PerInstr.lean ====
section
/-! SUPPORT. What holds of every instruction as syntax, one lemma a constructor. -/

namespace Sys2Proof.Laws

/-- The word of an instruction agrees with the row R63 gives the instruction (30_encoding.md R63). -/
def TableRow.Statement (i : Instr) : Prop :=
  ∃ row, opcodeMap[i.rowNumber - 1]? = some row ∧ matchesRow (encode i) row = true

theorem TableRow.cls : TableRow.Statement (.cls) :=
  ⟨_, rfl, by decide⟩

theorem TableRow.ret : TableRow.Statement (.ret) :=
  ⟨_, rfl, by decide⟩

theorem TableRow.nop0 (nnn : Addr) : TableRow.Statement (.nop0 nnn) :=
  ⟨_, rfl, by simp [matchesRow, encode, and_maskDigit]; try rfl⟩

theorem TableRow.jp (nnn : Addr) : TableRow.Statement (.jp nnn) :=
  ⟨_, rfl, by simp [matchesRow, encode, and_maskDigit]; try rfl⟩

theorem TableRow.call (nnn : Addr) : TableRow.Statement (.call nnn) :=
  ⟨_, rfl, by simp [matchesRow, encode, and_maskDigit]; try rfl⟩

theorem TableRow.seImm (x : Reg) (nn : Byte) : TableRow.Statement (.seImm x nn) :=
  ⟨_, rfl, by simp [matchesRow, encode, and_maskDigit]; try rfl⟩

theorem TableRow.sneImm (x : Reg) (nn : Byte) : TableRow.Statement (.sneImm x nn) :=
  ⟨_, rfl, by simp [matchesRow, encode, and_maskDigit]; try rfl⟩

theorem TableRow.seReg (x : Reg) (y : Reg) (n : Nibble) : TableRow.Statement (.seReg x y n) :=
  ⟨_, rfl, by simp [matchesRow, encode, and_maskDigit]; try rfl⟩

theorem TableRow.ldImm (x : Reg) (nn : Byte) : TableRow.Statement (.ldImm x nn) :=
  ⟨_, rfl, by simp [matchesRow, encode, and_maskDigit]; try rfl⟩

theorem TableRow.addImm (x : Reg) (nn : Byte) : TableRow.Statement (.addImm x nn) :=
  ⟨_, rfl, by simp [matchesRow, encode, and_maskDigit]; try rfl⟩

theorem TableRow.ldReg (x : Reg) (y : Reg) : TableRow.Statement (.ldReg x y) :=
  ⟨_, rfl, by simp [matchesRow, encode, and_maskDigitN]; try rfl⟩

theorem TableRow.orReg (x : Reg) (y : Reg) : TableRow.Statement (.orReg x y) :=
  ⟨_, rfl, by simp [matchesRow, encode, and_maskDigitN]; try rfl⟩

theorem TableRow.andReg (x : Reg) (y : Reg) : TableRow.Statement (.andReg x y) :=
  ⟨_, rfl, by simp [matchesRow, encode, and_maskDigitN]; try rfl⟩

theorem TableRow.xorReg (x : Reg) (y : Reg) : TableRow.Statement (.xorReg x y) :=
  ⟨_, rfl, by simp [matchesRow, encode, and_maskDigitN]; try rfl⟩

theorem TableRow.addReg (x : Reg) (y : Reg) : TableRow.Statement (.addReg x y) :=
  ⟨_, rfl, by simp [matchesRow, encode, and_maskDigitN]; try rfl⟩

theorem TableRow.subReg (x : Reg) (y : Reg) : TableRow.Statement (.subReg x y) :=
  ⟨_, rfl, by simp [matchesRow, encode, and_maskDigitN]; try rfl⟩

theorem TableRow.shr (x : Reg) (y : Reg) : TableRow.Statement (.shr x y) :=
  ⟨_, rfl, by simp [matchesRow, encode, and_maskDigitN]; try rfl⟩

theorem TableRow.subn (x : Reg) (y : Reg) : TableRow.Statement (.subn x y) :=
  ⟨_, rfl, by simp [matchesRow, encode, and_maskDigitN]; try rfl⟩

theorem TableRow.shl (x : Reg) (y : Reg) : TableRow.Statement (.shl x y) :=
  ⟨_, rfl, by simp [matchesRow, encode, and_maskDigitN]; try rfl⟩

theorem TableRow.nop8 (x : Reg) (y : Reg) (n : Nibble) : TableRow.Statement (.nop8 x y n) :=
  ⟨_, rfl, by simp [matchesRow, encode, and_maskDigit]; try rfl⟩

theorem TableRow.sneReg (x : Reg) (y : Reg) (n : Nibble) : TableRow.Statement (.sneReg x y n) :=
  ⟨_, rfl, by simp [matchesRow, encode, and_maskDigit]; try rfl⟩

theorem TableRow.ldI (nnn : Addr) : TableRow.Statement (.ldI nnn) :=
  ⟨_, rfl, by simp [matchesRow, encode, and_maskDigit]; try rfl⟩

theorem TableRow.jpV0 (nnn : Addr) : TableRow.Statement (.jpV0 nnn) :=
  ⟨_, rfl, by simp [matchesRow, encode, and_maskDigit]; try rfl⟩

theorem TableRow.rnd (x : Reg) (nn : Byte) : TableRow.Statement (.rnd x nn) :=
  ⟨_, rfl, by simp [matchesRow, encode, and_maskDigit]; try rfl⟩

theorem TableRow.drw (x : Reg) (y : Reg) (n : Nibble) : TableRow.Statement (.drw x y n) :=
  ⟨_, rfl, by simp [matchesRow, encode, and_maskDigit]; try rfl⟩

theorem TableRow.skp (x : Reg) : TableRow.Statement (.skp x) :=
  ⟨_, rfl, by simp [matchesRow, encode, and_maskDigitNn]; try rfl⟩

theorem TableRow.sknp (x : Reg) : TableRow.Statement (.sknp x) :=
  ⟨_, rfl, by simp [matchesRow, encode, and_maskDigitNn]; try rfl⟩

theorem TableRow.nopE (x : Reg) (nn : Byte) : TableRow.Statement (.nopE x nn) :=
  ⟨_, rfl, by simp [matchesRow, encode, and_maskDigit]; try rfl⟩

theorem TableRow.ldVxDt (x : Reg) : TableRow.Statement (.ldVxDt x) :=
  ⟨_, rfl, by simp [matchesRow, encode, and_maskDigitNn]; try rfl⟩

theorem TableRow.ldVxK (x : Reg) : TableRow.Statement (.ldVxK x) :=
  ⟨_, rfl, by simp [matchesRow, encode, and_maskDigitNn]; try rfl⟩

theorem TableRow.ldDtVx (x : Reg) : TableRow.Statement (.ldDtVx x) :=
  ⟨_, rfl, by simp [matchesRow, encode, and_maskDigitNn]; try rfl⟩

theorem TableRow.ldStVx (x : Reg) : TableRow.Statement (.ldStVx x) :=
  ⟨_, rfl, by simp [matchesRow, encode, and_maskDigitNn]; try rfl⟩

theorem TableRow.addI (x : Reg) : TableRow.Statement (.addI x) :=
  ⟨_, rfl, by simp [matchesRow, encode, and_maskDigitNn]; try rfl⟩

theorem TableRow.ldF (x : Reg) : TableRow.Statement (.ldF x) :=
  ⟨_, rfl, by simp [matchesRow, encode, and_maskDigitNn]; try rfl⟩

theorem TableRow.ldB (x : Reg) : TableRow.Statement (.ldB x) :=
  ⟨_, rfl, by simp [matchesRow, encode, and_maskDigitNn]; try rfl⟩

theorem TableRow.storeRegs (x : Reg) : TableRow.Statement (.storeRegs x) :=
  ⟨_, rfl, by simp [matchesRow, encode, and_maskDigitNn]; try rfl⟩

theorem TableRow.loadRegs (x : Reg) : TableRow.Statement (.loadRegs x) :=
  ⟨_, rfl, by simp [matchesRow, encode, and_maskDigitNn]; try rfl⟩

theorem TableRow.nopF (x : Reg) (nn : Byte) : TableRow.Statement (.nopF x nn) :=
  ⟨_, rfl, by simp [matchesRow, encode, and_maskDigit]; try rfl⟩

end Sys2Proof.Laws
end

