-- ==== Sys2Proof/Tests/Slice0.lean ====
section
/-! SUPPORT. The model's own tests: what WellFormed refuses, every constructor's decoding from a word written out from
its encoding, the spec's own vectors (95_test_vectors.md, whose name each test of one carries), and, for each statement
with hypotheses, a state that meets them. -/

namespace Sys2Proof.Tests

open Sys2Proof Sys2Proof.Machine

/-! ## What WellFormed refuses (R57 to R60, R62) -/

theorem test_wf_refuses_cls_as_nop : Instr.wf (.nop0 0x0E0#12) = false := by decide
theorem test_wf_refuses_ret_as_nop : Instr.wf (.nop0 0x0EE#12) = false := by decide
theorem test_wf_refuses_digit8_rows_as_nop :
    [0x0#4, 0x1#4, 0x2#4, 0x3#4, 0x4#4, 0x5#4, 0x6#4, 0x7#4, 0xE#4].all (fun n => !(Instr.nop8 1 2 n).wf) = true := by
  decide
theorem test_wf_refuses_digitE_rows_as_nop : [0x9E#8, 0xA1#8].all (fun nn => !(Instr.nopE 1 nn).wf) = true := by decide
theorem test_wf_refuses_digitF_rows_as_nop :
    [0x07#8, 0x0A#8, 0x15#8, 0x18#8, 0x1E#8, 0x29#8, 0x33#8, 0x55#8, 0x65#8].all (fun nn => !(Instr.nopF 1 nn).wf)
      = true := by decide

/-! ## Words written out from the opcode map R63 -/

theorem test_decode_cls : decode 0b0000000011100000#16 = .cls := by decide
theorem test_decode_ret : decode 0b0000000011101110#16 = .ret := by decide
theorem test_decode_nop0 : decode 0b0000000111100000#16 = .nop0 0x1E0#12 := by decide
theorem test_decode_jp : decode 0b0001001000110100#16 = .jp 0x234#12 := by decide
theorem test_decode_call : decode 0b0010111111111110#16 = .call 0xFFE#12 := by decide
theorem test_decode_seImm : decode 0b0011101001011100#16 = .seImm 10 0x5C#8 := by decide
theorem test_decode_sneImm : decode 0b0100010110100011#16 = .sneImm 5 0xA3#8 := by decide
theorem test_decode_seReg : decode 0b0101000111100111#16 = .seReg 1 14 0x7#4 := by decide
theorem test_decode_ldImm : decode 0b0110111111110000#16 = .ldImm 15 0xF0#8 := by decide
theorem test_decode_addImm : decode 0b0111001011111111#16 = .addImm 2 0xFF#8 := by decide
theorem test_decode_ldReg : decode 0b1000000100100000#16 = .ldReg 1 2 := by decide
theorem test_decode_orReg : decode 0b1000001100010001#16 = .orReg 3 1 := by decide
theorem test_decode_andReg : decode 0b1000010010000010#16 = .andReg 4 8 := by decide
theorem test_decode_xorReg : decode 0b1000100001000011#16 = .xorReg 8 4 := by decide
theorem test_decode_addReg : decode 0b1000111111100100#16 = .addReg 15 14 := by decide
theorem test_decode_subReg : decode 0b1000111011110101#16 = .subReg 14 15 := by decide
theorem test_decode_shr : decode 0b1000011001110110#16 = .shr 6 7 := by decide
theorem test_decode_subn : decode 0b1000011101100111#16 = .subn 7 6 := by decide
theorem test_decode_shl : decode 0b1000100110101110#16 = .shl 9 10 := by decide
theorem test_decode_nop8 : decode 0b1000101010011111#16 = .nop8 10 9 0xF#4 := by decide
theorem test_decode_sneReg : decode 0b1001110000110001#16 = .sneReg 12 3 0x1#4 := by decide
theorem test_decode_ldI : decode 0b1010001100000001#16 = .ldI 0x301#12 := by decide
theorem test_decode_jpV0 : decode 0b1011100000000001#16 = .jpV0 0x801#12 := by decide
theorem test_decode_rnd : decode 0b1100001100001111#16 = .rnd 3 0x0F#8 := by decide
theorem test_decode_drw : decode 0b1101000100101111#16 = .drw 1 2 0xF#4 := by decide
theorem test_decode_skp : decode 0b1110010110011110#16 = .skp 5 := by decide
theorem test_decode_sknp : decode 0b1110101010100001#16 = .sknp 10 := by decide
theorem test_decode_nopE : decode 0b1110101010011111#16 = .nopE 10 0x9F#8 := by decide
theorem test_decode_ldVxDt : decode 0b1111000100000111#16 = .ldVxDt 1 := by decide
theorem test_decode_ldVxK : decode 0b1111001000001010#16 = .ldVxK 2 := by decide
theorem test_decode_ldDtVx : decode 0b1111001100010101#16 = .ldDtVx 3 := by decide
theorem test_decode_ldStVx : decode 0b1111010000011000#16 = .ldStVx 4 := by decide
theorem test_decode_addI : decode 0b1111010100011110#16 = .addI 5 := by decide
theorem test_decode_ldF : decode 0b1111011000101001#16 = .ldF 6 := by decide
theorem test_decode_ldB : decode 0b1111011100110011#16 = .ldB 7 := by decide
theorem test_decode_storeRegs : decode 0b1111100001010101#16 = .storeRegs 8 := by decide
theorem test_decode_loadRegs : decode 0b1111100101100101#16 = .loadRegs 9 := by decide
theorem test_decode_nopF : decode 0b1111100101100110#16 = .nopF 9 0x66#8 := by decide

/-- E1: big-endian bytes, and bytes left over. -/
theorem test_E1_big_endian : decodeBytes [0x12#8, 0x34#8, 0x56#8] = .ok (.jp 0x234#12, [0x56#8]) := by decide
theorem test_one_byte_is_no_word : decodeBytes [0x12#8] = .error .fewerThanTwoBytes := by decide
theorem test_table_word : decodeTableWord 16 0xD015 = some (.drw 0 1 0x5#4) := by decide

/-! ## The syntax of R68, the words of programs A, B and D (95_test_vectors.md) -/

theorem test_syntax_words :
    (AsmLine.call 0x20E#12).word = 0x220E#16 ∧ (AsmLine.drw 3 3 0x5#4).word = 0xD335#16 ∧
      (AsmLine.ldVxK 3).word = 0xF30A#16 ∧ (AsmLine.seReg 0 1).word = 0x5010#16 ∧ (AsmLine.shlShort 0).word = 0x800E#16 ∧
      (AsmLine.jpV0 0x302#12).word = 0xB302#16 := by decide
theorem test_syntax_text :
    (decode 0xF265#16).line.text = "LD V2, [I]".toList ∧ (decode 0x62FF#16).line.text = "LD V2, 0xFF".toList ∧
      (decode 0x5011#16).line.text = "DW 0x5011".toList ∧ (decode 0x00EE#16).line.text = "RET".toList := by decide

/-! ## One instruction on a small state -/

/-- The reset state with some registers given, V0 first. -/
def regs (l : List Byte) : State := { State.reset with v := Vector.ofFn fun k => l.getD k 0#8 }

/-- VF given in a state. -/
def withVF (s : State) (b : Byte) : State := s.setReg 15 b

/-- The next state, if there is one. -/
def nextOf : Host.Outcome State Fault Refusal → Option State
  | .next t => some t
  | .fault _ => none
  | .refused _ => none

/-- The state after one cycle that runs the word. -/
def ran (w : Nat) (s : State) : Option State := nextOf (step (s.withFetchWord 16 w))

/-- Two registers after one cycle. -/
def ranRegs (w : Nat) (s : State) (x y : Reg) : Option (Byte × Byte) := (ran w s).map fun t => (t.reg x, t.reg y)

/-- The pc after one cycle at a pc. -/
def ranPc (w : Nat) (p : Word) (s : State) : Option Word := (ran w (s.setPc p)).map (·.pc)

theorem test_A2_addImm_wraps : ranRegs 0x72FF (regs [0, 0, 3]) 2 15 = some (0x02#8, 0#8) := by decide
theorem test_A3_addImm_no_flag : ranRegs 0x7F01 (withVF (regs []) 0xFF) 15 0 = some (0#8, 0#8) := by decide
theorem test_A5_copy_to_VF_is_cleared : ranRegs 0x8F10 (withVF (regs [0, 0x10]) 1) 15 1 = some (0#8, 0x10#8) := by decide
theorem test_A6_or : ranRegs 0x8011 (withVF (regs [0x0F, 0xF0]) 1) 0 15 = some (0xFF#8, 0#8) := by decide
theorem test_A7_and : ranRegs 0x8012 (withVF (regs [0x3C, 0x0F]) 1) 0 15 = some (0x0C#8, 0#8) := by decide
theorem test_A9_xor_self : ranRegs 0x8003 (withVF (regs [0x5A]) 1) 0 15 = some (0#8, 0#8) := by decide
theorem test_A11_add_carries : ranRegs 0x8014 (regs [0xFF, 0x01]) 0 15 = some (0#8, 1#8) := by decide
theorem test_A14_add_reads_VF_first : ranRegs 0x80F4 (withVF (regs [0x10]) 5) 0 15 = some (0x15#8, 0#8) := by decide
theorem test_A15_sub_borrows : ranRegs 0x8015 (regs [3, 5]) 0 15 = some (0xFE#8, 0#8) := by decide
theorem test_A17_sub_flag_is_last :
    ranRegs 0x8FE5 (withVF ((regs []).setReg 14 1) 0xFF) 15 14 = some (1#8, 1#8) := by decide
theorem test_A18_subn : ranRegs 0x8017 (regs [3, 5]) 0 15 = some (0x02#8, 1#8) := by decide
theorem test_A19_subn_borrows : ranRegs 0x8017 (regs [5, 3]) 0 15 = some (0xFE#8, 0#8) := by decide
theorem test_A20_shr : ranRegs 0x8016 (regs [0x81, 0x02]) 0 15 = some (0x40#8, 1#8) := by decide
theorem test_A20_shr_quirk :
    ranRegs 0x8016 { regs [0x81, 0x02] with cfg := { defaultConfig with shiftUsesVy := true } } 0 15
      = some (0x01#8, 0#8) := by decide
theorem test_A24_shl_flag_is_last : ranRegs 0x8FFE (withVF (regs []) 0x40) 15 0 = some (0#8, 0#8) := by decide
theorem test_A25_shl_quirk :
    ranRegs 0x801E { regs [0x00, 0x80] with cfg := { defaultConfig with shiftUsesVy := true } } 0 15
      = some (0#8, 1#8) := by decide
theorem test_A27_rnd_takes_one_byte :
    ((exec (.rnd 3 0x00#8) (regs [0, 0, 0, 9])) = .next ((((regs [0, 0, 0, 9]).setReg 3
      (Config.randomByte 0 &&& 0x00#8)).setDraws 1))) := by rfl

theorem test_F4_ret_moves_past_the_call :
    (ran 0x00EE ({ State.reset with stack := [0x204#16] }.setPc 0x20E#16)).map (fun t => (t.pc, t.stack))
      = some (0x206#16, []) := by decide
theorem test_F3_call_pushes_its_address :
    (ran 0x220E (State.reset.setPc 0x204#16)).map (fun t => (t.pc, t.stack)) = some (0x20E#16, [0x204#16]) := by decide
theorem test_F5_ret_underflow :
    (ran 0x00EE State.reset).map (fun t => (t.pc, t.faulted, t.host.result))
      = some (0x200#16, some .stackUnderflow, some (.err .stackUnderflow)) := by decide
theorem test_F6_call_overflow :
    (ran 0x2200 { State.reset with stack := [0x200#16, 0x200#16], cfg := { defaultConfig with maxStackDepth := 2 } }).map
      (fun t => (t.pc, t.stack, t.faulted)) = some (0x200#16, [0x200#16, 0x200#16], some .stackOverflow) := by decide
theorem test_F2_self_jump : ranPc 0x1204 0x204#16 State.reset = some 0x204#16 := by decide
/-- R26: did_jump is false at the boundary after a jump. -/
theorem test_F1_jump_boundary :
    (ran 0x1204 (State.reset.setPc 0x20A#16)).map (fun t => (t.pc, t.didJump)) = some (0x204#16, false) := by decide
theorem test_F7_se_taken : ranPc 0x3200 0x208#16 (regs []) = some 0x20C#16 := by decide
theorem test_F8_se_not_taken : ranPc 0x3200 0x208#16 (regs [0, 0, 1]) = some 0x20A#16 := by decide
theorem test_F9_sne_taken : ranPc 0x4200 0x208#16 (regs [0, 0, 1]) = some 0x20C#16 := by decide
theorem test_E6_seReg_ignores_n : ranPc 0x5011 0x300#16 (regs [7, 7]) = some 0x304#16 := by decide
theorem test_F11_sneReg_taken : ranPc 0x9010 0x300#16 (regs [7, 8]) = some 0x304#16 := by decide
theorem test_F14_jpV0 : ranPc 0xB302 0x200#16 (regs [4, 0, 0, 0x10]) = some 0x306#16 := by decide
theorem test_F14_jpV0_quirk :
    ranPc 0xB302 0x200#16 { regs [4, 0, 0, 0x10] with cfg := { defaultConfig with jumpUsesVx := true } }
      = some 0x312#16 := by decide
theorem test_F15_jpV0_past_memory : ranPc 0xBFFF 0x200#16 (regs [0xFF]) = some 0x10FE#16 := by decide

theorem test_E2_nop8 : ranPc 0x8008 0x200#16 State.reset = some 0x202#16 := by decide
theorem test_E4_not_cls :
    (ran 0x01E0 { State.reset with fb := Vector.replicate 32 1#64 }).map (fun t => (t.pc, t.fb[0], t.dirty))
      = some (0x202#16, 1#64, false) := by decide
theorem test_E7_odd_pc : ranRegs 0x602A (State.reset.setPc 0x301#16) 0 1 = some (0x2A#8, 0#8) := by decide
theorem test_E8_last_word : ranPc 0x6001 0xFFE#16 State.reset = some 0x1000#16 := by decide

/-- A state inside a `step` call with one instruction left, at a pc. -/
def inCall (p : Word) (s : State) : State := { s with pc := p, host := { s.host with left := some 1, started := true } }

/-- What a move leaves of the pc, the error and the returned result. -/
def moved (s : State) : Option (Word × Option Fault × Option CallResult) :=
  (nextOf (step s)).map fun t => (t.pc, t.faulted, t.host.result)

theorem test_E9_fetch_out_of_range :
    moved (inCall 0xFFF#16 State.reset)
      = some (0xFFF#16, some (.memOutOfBounds 0x1000), some (.err (.memOutOfBounds 0x1000))) := by decide
theorem test_F15_fetch_out_of_range :
    moved (inCall 0x10FE#16 State.reset)
      = some (0x10FE#16, some (.memOutOfBounds 0x10FE), some (.err (.memOutOfBounds 0x10FE))) := by decide

/-! ### Display -/

/-- A row after a draw, and VF. -/
def drawn (w : Nat) (s : State) (r : Fin 32) : Option (Row × Byte) := (ran w s).map fun t => (t.fb[r], t.reg 15)

/-- The state with one sprite byte at I = 0x300. -/
def sprite (b : Byte) (s : State) : State := (s.setI 0x300#16).writeByte 0x300 b

theorem test_G1_cls :
    (ran 0x00E0 { State.reset with fb := Vector.replicate 32 5#64 }).map (fun t => (t.fb == Vector.replicate 32 0#64, t.dirty))
      = some (true, true) := by decide
theorem test_G2_glyph_0 : drawn 0xD015 (State.reset.setI 0x050#16) 1 = some (0x9000000000000000#64, 0#8) := by decide
theorem test_G3_second_draw :
    (ran 0xD015 (State.reset.setI 0x050#16)).bind (fun t => drawn 0xD015 (t.setPc 0x300#16) 1)
      = some (0#64, 1#8) := by decide
/-- P4, against R117's own inference: the first draw turns every pixel of the sprite off, so that the framebuffer is all
zero, onto which the second draw "never sets the flag" (log 28). -/
theorem test_P4_second_draw_onto_zero :
    (ran 0xD011 (sprite 0x80 { State.reset with fb := (Vector.replicate 32 0#64).set 0 0x8000000000000000#64 })).bind
      (fun t => if t.fb = Vector.replicate 32 0#64 then drawn 0xD011 (t.setPc 0x302#16) 0 else none)
      = some (0x8000000000000000#64, 0#8) := by decide
theorem test_G4_clip : drawn 0xD011 (sprite 0xFF (regs [60])) 0 = some (0x000000000000000F#64, 0#8) := by decide
theorem test_G4_wrap :
    drawn 0xD011 (sprite 0xFF { regs [60] with cfg := { defaultConfig with drawColMode := .wrap } }) 0
      = some (0xF00000000000000F#64, 0#8) := by decide
theorem test_G5_rows_wrap :
    drawn 0xD125 ((regs [0, 0, 30]).setI 0x050#16) 0 = some (0x9000000000000000#64, 0#8) := by decide
theorem test_G5_rows_clip :
    drawn 0xD125 ({ regs [0, 0, 30] with cfg := { defaultConfig with drawRowMode := .clip } }.setI 0x050#16) 0
      = some (0#64, 0#8) := by decide
theorem test_G6_wrapped_start : drawn 0xD011 (sprite 0x80 (regs [67, 33])) 1 = some (0x1000000000000000#64, 0#8) := by
  decide
theorem test_G8_collision :
    drawn 0xD011 (sprite 0x30 { State.reset with fb := (Vector.replicate 32 0#64).set 0 0xF000000000000000#64 }) 0
      = some (0xC000000000000000#64, 1#8) := by decide
theorem test_G9_VF_read_first : drawn 0xDF11 (sprite 0x80 (withVF (regs []) 8)) 0 = some (0x0080000000000000#64, 0#8) := by
  decide
theorem test_G10_no_rows :
    (ran 0xD010 (withVF (State.reset.setI 0xFFFF#16) 1)).map (fun t => (t.reg 15, t.dirty, t.faulted))
      = some (0#8, true, none) := by decide
theorem test_G12_clipped_rows_are_checked :
    (ran 0xD013 ({ regs [0, 31] with cfg := { defaultConfig with drawRowMode := .clip } }.setI 0xFFE#16)).map
      (fun t => (t.faulted, t.dirty)) = some (some (.memOutOfBounds 0x1000), false) := by decide

/-! ### Keys and timers -/

/-- Key A held. -/
def heldA : Input := { held := (Vector.replicate 16 false).set 10 true, released := none }

/-- The state with a snapshot. -/
def withInput (input : Input) (s : State) : State := s.setHost { s.host with input := input }

theorem test_K1_skp : ranPc 0xE59E 0x300#16 (withInput heldA (regs [0, 0, 0, 0, 0, 0xA])) = some 0x304#16 := by decide
theorem test_K6_release_is_not_held :
    ranPc 0xE59E 0x300#16 (withInput { Input.idle with released := some 10 } (regs [0, 0, 0, 0, 0, 0xA])) = some 0x302#16 := by
  decide
theorem test_K3_sknp : ranPc 0xE5A1 0x300#16 (regs [0, 0, 0, 0, 0, 0xA]) = some 0x304#16 := by decide
theorem test_K4_sknp_held : ranPc 0xE5A1 0x300#16 (withInput heldA (regs [0, 0, 0, 0, 0, 0xA])) = some 0x302#16 := by
  decide
theorem test_K5_key_out_of_range :
    (ran 0xE59E (regs [0, 0, 0, 0, 0, 0x10])).map (fun t => (t.pc, t.faulted)) = some (0x200#16, some (.keyOutOfRange 16)) := by
  decide
theorem test_K7_wait :
    (ran 0xF30A State.reset).map (fun t => (t.pc, t.waiting)) = some (0x200#16, some 3) := by decide
theorem test_K8_read_dt : ranRegs 0xF107 { State.reset with dt := 0x3C#8 } 1 0 = some (0x3C#8, 0#8) := by decide
theorem test_K9_write_dt_and_tick :
    ((ran 0xF115 (regs [0, 0x3C])).bind fun t => nextOf (step t)).map (fun u => (u.dt, u.host.left))
      = some (0x3B#8, none) := by decide
theorem test_K11_write_st :
    (ran 0xF218 (regs [0, 0, 5])).map (fun t => (t.st, t.soundActive, t.tick.st)) = some (5#8, true, 4#8) := by decide
theorem test_K14_tick_floor : (State.reset.tick.dt, State.reset.tick.st) = (0#8, 0#8) := by decide

/-! ### Index and memory -/

theorem test_M1_ldI : (ran 0xA300 State.reset).map (·.i) = some 0x300#16 := by decide
theorem test_M3_addI_past_memory :
    (ran 0xF01E ((regs [1]).setI 0xFFF#16)).map (fun t => (t.i, t.faulted)) = some (0x1000#16, none) := by decide
theorem test_M4_addI_fault :
    (ran 0xF01E ((regs [1]).setI 0xFFFF#16)).map (fun t => (t.i, t.faulted))
      = some (0xFFFF#16, some (.indexOverflow 0x10000)) := by decide
theorem test_M4_addI_wrap :
    (ran 0xF01E ({ regs [1] with cfg := { defaultConfig with indexOverflow := .wrap } }.setI 0xFFFF#16)).map
      (fun t => (t.i, t.faulted)) = some (0#16, none) := by decide
theorem test_M6_glyph_not_clamped : (ran 0xF129 (regs [0, 0x20])).map (·.i) = some 0x0F0#16 := by decide

/-- Three bytes of memory. -/
def three (s : State) (a : Nat) : Byte × Byte × Byte := (s.readByte a, s.readByte (a + 1), s.readByte (a + 2))

theorem test_M7_bcd : (ran 0xF033 ((regs [254]).setI 0x300#16)).map (fun t => three t 0x300) = some (2#8, 5#8, 4#8) := by
  decide
theorem test_M10_bcd_out_of_range :
    (ran 0xF033 ((regs [254]).setI 0xFFE#16)).map (fun t => (t.faulted, t.readByte 0xFFE))
      = some (some (.memOutOfBounds 0x1000), 0#8) := by decide
theorem test_M12_store :
    (ran 0xF155 ((regs [0x11, 0x22]).setI 0x400#16)).map (fun t => (three t 0x400, t.i))
      = some ((0x11#8, 0x22#8, 0#8), 0x400#16) := by decide
theorem test_M12_store_quirk :
    (ran 0xF155 ({ regs [0x11, 0x22] with cfg := { defaultConfig with storeIncrementsI := true } }.setI 0x400#16)).map (·.i)
      = some 0x402#16 := by decide
theorem test_M14_store_out_of_range :
    (ran 0xFF55 ((regs [1]).setI 0xFF1#16)).map (fun t => (t.faulted, t.readByte 0xFF1))
      = some (some (.memOutOfBounds 0x1000), 0#8) := by decide
theorem test_M15_load :
    (ran 0xF165 ((((regs [9, 9, 9]).setI 0x300#16).writeByte 0x300 2).writeByte 0x301 5)).map
      (fun t => (t.reg 0, t.reg 1, t.reg 2, t.i)) = some (2#8, 5#8, 9#8, 0x300#16) := by decide

/-- A byte set back to its reset content is not listed. -/
theorem test_memory_canonical : ((State.reset.writeByte 0x300 7).writeByte 0x300 0).mem = [] := by decide
theorem test_memory_rising : ((State.reset.writeByte 0x301 7).writeByte 0x300 8).mem = [(0x300, 8#8), (0x301, 7#8)] := by
  decide

/-! ### The engine -/

/-- The state with a request of the host. -/
def asked (r : Request) (s : State) : State := s.setHost { s.host with requests := [r] }

/-- Log 11: from reset, a program of one word is loaded and then run by the third move. -/
theorem test_program_runs_from_reset :
    (nextOf (Host.Core.run Sys2Proof.core 3
      (State.reset.setHost { State.reset.host with requests := [.loadProgram [0x6A, 0x05], .step 1 Input.idle] }))).map
      (fun t => (t.reg 10, t.pc)) = some (0x05#8, 0x202#16) := by decide

theorem test_X2_same_error :
    step (asked (.step 5 Input.idle) { State.reset with faulted := some .stackUnderflow }) = .fault .stackUnderflow := by rfl
theorem test_X3_release_ends_the_wait :
    (nextOf (step (asked (.step 0 { Input.idle with released := some 7 })
      { State.reset with waiting := some 3, dt := 2#8 }))).map (fun t => (t.reg 3, t.waiting, t.pc, t.dt))
      = some (7#8, none, 0x202#16, 1#8) := by decide
theorem test_X6_program_too_large (bytes : List Byte) (h : bytes.length = 3585) :
    step (asked (.loadProgram bytes) State.reset) = .next (State.reset.endCall (.err (.programTooLarge 3585))) := by
  simp [step, State.move, asked, State.accept, State.loadProgram, memSize, programBase, State.reset, State.create,
    State.setHost, State.endCall, h]

/-! ## A state and operands that meet the hypotheses of each statement that has some

At a boundary value of each clause's range. A statement without hypotheses has none here. -/

theorem test_witness_BytesDecodeBigEndian : [0x12#8].length < 2 ∧ ([] : List Byte).length < 2 := by decide

theorem test_witness_DecodeEncodeIsIdentity : (Instr.nop0 0x0EF#12).wf = true ∧ (Instr.nopF 15 0x64#8).wf = true := by
  decide

theorem test_witness_EveryWordIsExactlyOneInstruction :
    (Instr.nop8 1 2 0x8#4).wf = true ∧ encode (.nop8 1 2 0x8#4) = 0x8128#16 := by decide

/-- The addresses beside the font's two ends, and what they read as. -/
theorem test_witness_ResetLeavesTheStateOfCreation :
    State.reset.readByte 0x04F = 0 ∧ State.reset.readByte 0x050 = 0xF0 ∧ State.reset.readByte 0x09F = 0x80 ∧
      State.reset.readByte 0x0A0 = 0 := by decide

theorem test_witness_CreationMeetsTheInvariant :
    ({ defaultConfig with fontBase := 0x1B0#16, maxStackDepth := 1 } : Config).wf = true ∧
      ({ defaultConfig with fontBase := 0x1B1#16 } : Config).wf = false ∧
      ({ defaultConfig with maxStackDepth := 0 } : Config).wf = false := by decide

/-- A state in a subroutine, in a `step` call, about to run a word. -/
def inSubroutine (w : Nat) : State := ({ State.reset with stack := [0xFFE#16] }).withFetchWord 16 w

/-- The invariant holds in it, with a return address at its bound, and the step has a next state. -/
theorem test_witness_StepKeepsTheInvariant :
    (inSubroutine 0x00EE).Inv ∧ (nextOf (step (inSubroutine 0x00EE))).map (·.pc) = some 0x1000#16 := by
  refine ⟨⟨by decide, by decide, by decide, ?_, by decide, by decide, by decide, by decide⟩, by decide⟩
  show ∀ r ∈ [0xFFE#16], r.toNat ≤ 0xFFE
  simp

theorem test_witness_MovesComputeTheStepCall :
    (asked (.step 3 Input.idle) State.reset).host.left = none ∧ (asked (.step 3 Input.idle) State.reset).faulted = none ∧
      (asked (.step 3 Input.idle) State.reset).host.requests = [.step 3 Input.idle] := by decide

theorem test_witness_ConfigurationNeverChanges :
    (nextOf (step (State.reset.withFetchWord 16 0x1300))).isSome = true ∧
      (nextOf (exec (.jp 0x300#12) State.reset)).isSome = true := by decide

theorem test_witness_OnlyClearAndDrawChangeTheFramebuffer :
    (ran 0x00E0 { State.reset with fb := Vector.replicate 32 1#64 }).map (fun t => t.fb[31]) = some 0#64 ∧
      (drawn 0xD011 (sprite 0x80 State.reset) 0) = some (0x8000000000000000#64, 0#8) := by decide

theorem test_witness_OnlyCallAndReturnChangeTheStack :
    (ran 0x2300 State.reset).map (·.stack) = some [0x200#16] ∧
      (nextOf (step (inSubroutine 0x00EE))).map (·.stack) = some [] := by decide

theorem test_witness_SnapshotIsFixedDuringAStepCall :
    (State.reset.withFetchWord 16 0x1300).host.left ≠ none ∧ (ran 0x1300 State.reset).isSome = true := by decide

theorem test_witness_StepStopsOnlyWhenFaultedOrLoadedLate :
    step (asked (.step 1 Input.idle) { State.reset with faulted := some (.keyOutOfRange 16) }) = .fault (.keyOutOfRange 16) ∧
      step (asked (.loadProgram [0x12]) (inCall 0x200#16 State.reset |>.endCall .ok)) = .refused .loadAfterStep :=
  ⟨rfl, rfl⟩

theorem test_witness_StepRunsTheDecodedInstruction :
    ((State.reset.setPc 0xFFE#16).withFetchWord 16 0x6A05).running 0 ∧
      ((State.reset.setPc 0xFFE#16).withFetchWord 16 0x6A05).pc.toNat ≤ 0xFFE ∧
      decodeBytes [((State.reset.setPc 0xFFE#16).withFetchWord 16 0x6A05).readByte 0xFFE,
        ((State.reset.setPc 0xFFE#16).withFetchWord 16 0x6A05).readByte 0xFFF] = .ok (.ldImm 10 0x05#8, []) ∧
      (nextOf (exec (.ldImm 10 0x05#8) ((State.reset.setPc 0xFFE#16).withFetchWord 16 0x6A05))).map (·.faulted)
        = some none := by decide

theorem test_witness_PcAfterEachInstruction :
    (State.reset.faulted = none ∧ State.reset.waiting = none ∧ State.reset.didJump = false) ∧
      (nextOf (exec (.ldVxK 1) State.reset)).map (·.faulted) = some none ∧
      (nextOf (exec .ret State.reset)).map (·.faulted) = some (some .stackUnderflow) := by decide

theorem test_witness_FetchOutOfRangeIsAnError :
    ((inCall 0xFFF#16 State.reset).running 0 ∧ 0xFFE < (inCall 0xFFF#16 State.reset).pc.toNat) ∧
      ((inCall 0x1000#16 State.reset).running 0 ∧ 0xFFE < (inCall 0x1000#16 State.reset).pc.toNat) := by decide

/-- Both ways a call ends: no instruction left, and a key wait with instructions left. -/
theorem test_witness_TickEndsTheStepCall :
    (inCall 0x200#16 State.reset).faulted = none ∧
      (State.reset.setHost { State.reset.host with left := some 0 }).host.left = some 0 ∧
      (inCall 0x200#16 { State.reset with waiting := some 3 }).host.left = some (0 + 1) ∧
      (inCall 0x200#16 { State.reset with waiting := some 3 }).waiting ≠ none := by decide

/-- Waiting for a key in V15, asked for a step with an input. -/
def waitingAsked (input : Input) : State := asked (.step 10 input) { State.reset with waiting := some 15 }

theorem test_witness_KeyWaitLastsWithoutARelease :
    (waitingAsked heldA).host.left = none ∧ (waitingAsked heldA).faulted = none ∧
      (waitingAsked heldA).waiting = some 15 ∧ (waitingAsked heldA).host.requests = [.step 10 heldA] ∧
      heldA.released = none := by decide

/-- Key 15 is released. -/
def releasedF : Input := { Input.idle with released := some 15 }

theorem test_witness_KeyReleaseEndsTheWait :
    (waitingAsked releasedF).host.left = none ∧ (waitingAsked releasedF).faulted = none ∧
      (waitingAsked releasedF).waiting = some 15 ∧ (waitingAsked releasedF).host.requests = [.step 10 releasedF] ∧
      releasedF.released = some 15 := by decide

theorem test_witness_StepZeroOnlyTicks :
    (asked (.step 0 heldA) State.reset).host.left = none ∧ (asked (.step 0 heldA) State.reset).faulted = none ∧
      (asked (.step 0 heldA) State.reset).waiting = none ∧
      (asked (.step 0 heldA) State.reset).host.requests = [.step 0 heldA] := by decide

theorem test_witness_FaultedStepCallReturnsTheSameError :
    (asked (.step 1 heldA) { State.reset with faulted := some .stackOverflow }).host.left = none ∧
      (asked (.step 1 heldA) { State.reset with faulted := some .stackOverflow }).faulted = some .stackOverflow ∧
      (asked (.step 1 heldA) { State.reset with faulted := some .stackOverflow }).host.requests = [.step 1 heldA] := by
  decide

theorem test_witness_ErrorEndsTheCallWithoutATick :
    (State.reset.withFetchWord 16 0x00EE).running 0 ∧ (State.reset.withFetchWord 16 0x00EE).pc.toNat ≤ 0xFFE ∧
      (nextOf (exec (decode (State.reset.withFetchWord 16 0x00EE).fetchWord)
        ((State.reset.withFetchWord 16 0x00EE).setDidJump false))).map (·.faulted) = some (some .stackUnderflow) := by
  decide

/-- Each clause: after a step; a program of 3584 bytes; one of 3585. -/
theorem test_witness_LoadProgramWritesTheProgram :
    (asked (.loadProgram []) State.reset).host.left = none ∧ (asked (.loadProgram []) State.reset).host.started = false ∧
      (asked (.loadProgram []) State.reset).host.requests = [.loadProgram []] ∧
      ((inCall 0x200#16 State.reset).endCall .ok).host.left = none ∧
      ((inCall 0x200#16 State.reset).endCall .ok).host.started = true ∧
      (List.replicate 3584 0#8).length ≤ 3584 ∧ 3584 < (List.replicate 3585 0#8).length := by
  refine ⟨by decide, by decide, by decide, by decide, by decide, ?_, ?_⟩ <;> rw [List.length_replicate]
  decide

theorem test_witness_HostClearsDirtyAlone :
    (asked .clearDirty { State.reset with dirty := true }).host.left = none ∧
      (asked .clearDirty { State.reset with dirty := true }).host.requests = [.clearDirty] := by decide

theorem test_witness_InstructionsWriteOnlyWhatIsListed :
    (nextOf (exec (.storeRegs 15) (State.reset.setI 0xFF0#16))).map (·.faulted) = some none := by decide

theorem test_witness_RaisingWritesNothingElse :
    State.reset.faulted = none ∧
      (nextOf (exec (.ldB 3) (State.reset.setI 0xFFE#16))).map (·.faulted) = some (some (.memOutOfBounds 0x1000)) := by
  decide

/-- One state for each error kind, at the boundary where it begins. -/
theorem test_witness_EachErrorHasItsOneCause :
    (nextOf (exec .ret State.reset)).map (·.faulted) = some (some .stackUnderflow) ∧
      (nextOf (exec (.call 0x300#12)
        { State.reset with stack := [0x200#16], cfg := { defaultConfig with maxStackDepth := 1 } })).map (·.faulted)
        = some (some .stackOverflow) ∧
      (nextOf (exec (.drw 0 0 0x1#4) (State.reset.setI 0x1000#16))).map (·.faulted)
        = some (some (.memOutOfBounds 0x1000)) ∧
      (nextOf (exec (.loadRegs 15) (State.reset.setI 0xFF1#16))).map (·.faulted)
        = some (some (.memOutOfBounds 0x1000)) ∧
      (nextOf (exec (.sknp 0) (regs [16]))).map (·.faulted) = some (some (.keyOutOfRange 16)) ∧
      (nextOf (exec (.addI 0) ((regs [1]).setI 0xFFFF#16))).map (·.faulted) = some (some (.indexOverflow 0x10000)) := by
  decide

theorem test_witness_UnrecognizedWordsDoNothing :
    ((0x0E1#12).toNat ≠ 0x0E0 ∧ (0x0E1#12).toNat ≠ 0x0EE) ∧
      (0xF#4).toNat ∈ [0x8, 0x9, 0xA, 0xB, 0xC, 0xD, 0xF] ∧ (0xA0#8).toNat ∉ [0x9E, 0xA1] ∧
      (0x66#8).toNat ∉ [0x07, 0x0A, 0x15, 0x18, 0x1E, 0x29, 0x33, 0x55, 0x65] ∧
      (State.reset.faulted = none ∧ State.reset.waiting = none ∧ State.reset.didJump = false) := by decide

theorem test_witness_ReturnPopsThePc : (inSubroutine 0x00EE).stack = 0xFFE#16 :: [] ∧ State.reset.stack = [] := by decide

/-- One below the maximum depth, and at it. -/
theorem test_witness_CallPushesThePc :
    ({ State.reset with stack := List.replicate 15 0x200#16 } : State).stack.length < State.reset.cfg.maxStackDepth ∧
      ({ State.reset with stack := List.replicate 16 0x200#16 } : State).stack.length = State.reset.cfg.maxStackDepth := by
  decide

theorem test_witness_JumpAddsTheOffsetRegister :
    State.reset.cfg.jumpUsesVx = false ∧
      ({ State.reset with cfg := { defaultConfig with jumpUsesVx := true } } : State).cfg.jumpUsesVx = true ∧
      (15 : Reg).val = (0xF00#12).toNat / 256 := by decide

theorem test_witness_LogicGroupClearsVF : (14 : Reg) ≠ 15 := by decide

theorem test_witness_AddSetsTheCarry : (0 : Reg) ≠ 15 := by decide

theorem test_witness_SubtractSetsNoBorrow : (13 : Reg) ≠ 15 := by decide

theorem test_witness_ReverseSubtractSetsNoBorrow : (1 : Reg) ≠ 15 := by decide

/-- The operand under either value of SHIFT_USES_VY; also a register other than VF. -/
theorem test_witness_ShiftsSetTheBitShiftedOut :
    (0x81#8 = if (regs [0x81, 2]).cfg.shiftUsesVy = true then (regs [0x81, 2]).reg 1 else (regs [0x81, 2]).reg 0) ∧
      ({ regs [0x81, 2] with cfg := { defaultConfig with shiftUsesVy := true } } : State).cfg.shiftUsesVy = true ∧
      (0 : Reg) ≠ 15 := by decide

theorem test_witness_RowMaskPlacesThePixels : 63 < 64 := by decide

/-- No rows at any I; one row at the last address. -/
theorem test_witness_DrawTogglesTheSpritePixels :
    ((0x0#4 : Nibble) = 0 ∨ (State.reset.setI 0xFFFF#16).i.toNat + (0x0#4).toNat ≤ 0x1000) ∧
      (State.reset.setI 0xFFF#16).i.toNat + (0x1#4).toNat ≤ 0x1000 := by decide

theorem test_witness_DrawOutOfRangeIsAnError :
    (0x2#4 : Nibble) ≠ 0 ∧ 0x1000 < (State.reset.setI 0xFFF#16).i.toNat + (0x2#4).toNat ∧
      0x1000 < (State.reset.setI 0x1000#16).i.toNat + (0x1#4).toNat := by decide

/-- A draw that leaves both coordinate registers as they were. -/
theorem test_witness_DrawingTwiceRestoresTheFramebuffer :
    (sprite 0xFF (regs [60])).i.toNat + (0x1#4).toNat ≤ 0x1000 ∧
      (nextOf (exec (.drw 0 1 0x1#4) (sprite 0xFF (regs [60])))).map
        (fun t => (t.reg 0 = (sprite 0xFF (regs [60])).reg 0, t.reg 1 = (sprite 0xFF (regs [60])).reg 1))
        = some (60#8 = 60#8, 0#8 = 0#8) := ⟨by decide, rfl⟩

/-- The last key, and the first value that names none. -/
theorem test_witness_KeySkipsReadTheSnapshot : ((regs [15]).reg 0).toNat = (15 : Key).val ∧ 15 < ((regs [16]).reg 0).toNat := by
  decide

/-- The sum at 0xFFFF; at 0x10000 under each mode. -/
theorem test_witness_AddToIndexTakesTheSum :
    ((regs [1]).setI 0xFFFE#16).i.toNat + (((regs [1]).setI 0xFFFE#16).reg 0).toNat ≤ 0xFFFF ∧
      0xFFFF < ((regs [1]).setI 0xFFFF#16).i.toNat + (((regs [1]).setI 0xFFFF#16).reg 0).toNat ∧
      ((regs [1]).setI 0xFFFF#16).cfg.indexOverflow = .fault ∧
      ({ regs [1] with cfg := { defaultConfig with indexOverflow := .wrap } } : State).cfg.indexOverflow = .wrap := by
  decide

theorem test_witness_GlyphIndexIsNotClamped : State.reset.cfg.wf = true := by decide

theorem test_witness_BcdStoresTheThreeDigits :
    (State.reset.setI 0xFFD#16).i.toNat + 3 ≤ 0x1000 ∧ 0x1000 < (State.reset.setI 0xFFE#16).i.toNat + 3 := by decide

theorem test_witness_BlockStoreCopiesTheRegisters :
    (State.reset.setI 0xFF0#16).i.toNat + (15 : Reg).val + 1 ≤ 0x1000 ∧ State.reset.cfg.storeIncrementsI = false ∧
      ({ State.reset with cfg := { defaultConfig with storeIncrementsI := true } } : State).cfg.storeIncrementsI = true ∧
      0x1000 < (State.reset.setI 0xFF1#16).i.toNat + (15 : Reg).val + 1 := by decide

theorem test_witness_BlockLoadCopiesTheMemory :
    (State.reset.setI 0xFFF#16).i.toNat + (0 : Reg).val + 1 ≤ 0x1000 ∧
      0x1000 < (State.reset.setI 0x1000#16).i.toNat + (0 : Reg).val + 1 := by decide

/-- V0 = 0x12 and V1 = 0x34 stored at the end of memory are fetched there as 0x1234. -/
theorem test_witness_StoredBytesAreFetchedAtOnce :
    ((regs [0x12, 0x34]).setI 0xFFE#16).i.toNat + (1 : Reg).val + 1 ≤ 0x1000 ∧ (0 : Reg) < 1 ∧
      (0xFFE#16).toNat = ((regs [0x12, 0x34]).setI 0xFFE#16).i.toNat + (0 : Reg).val ∧
      (nextOf (exec (.storeRegs 1) ((regs [0x12, 0x34]).setI 0xFFE#16))).map (fun t => (t.setPc 0xFFE#16).fetchWord)
        = some 0x1234#16 := by decide

end Sys2Proof.Tests
end

section
/-! The words of memory and of byte lists (20_memory.md R34): one lemma for the fetch, two for the byte decoder. -/

namespace Sys2Proof.Machine

/-- R34 at the pc. There is no premise on the pc: that the two bytes lie in memory is the cycle's check, not the fetch's. -/
theorem State.fetchWord_toNat (s : State) :
    s.fetchWord.toNat = (s.readByte s.pc.toNat).toNat * 256 + (s.readByte (s.pc.toNat + 1)).toNat :=
  wordOfBytes_toNat _ _

/-- The byte decoder reads one word and hands back the bytes after it. -/
theorem decodeBytes_cons_cons (hi lo : Byte) (rest : List Byte) :
    decodeBytes (hi :: lo :: rest) = .ok (decode (wordOfBytes hi lo), rest) := rfl

/-- A list too short for a word is the byte decoder's only error; no word is refused (R67). -/
theorem decodeBytes_of_length_lt_two {bytes : List Byte} (h : bytes.length < 2) :
    decodeBytes bytes = .error .fewerThanTwoBytes := by
  match bytes, h with
  | [], _ => rfl
  | [_], _ => rfl
  | _ :: _ :: _, h => simp at h

/-- Settles O2: the fetch and the byte decoder build their word by the one `wordOfBytes`, which is big-endian. -/
theorem bytesDecodeBigEndian : Obligations.BytesDecodeBigEndian :=
  ⟨State.fetchWord_toNat,
    fun hi lo rest => ⟨wordOfBytes hi lo, wordOfBytes_toNat hi lo, decodeBytes_cons_cons hi lo rest⟩,
    fun _ h => decodeBytes_of_length_lt_two h⟩

end Sys2Proof.Machine
end

section
/-! The opcode map as a bijection (30_encoding.md R55 to R63): decoding and encoding undo each other between the words and
the well-formed instructions, and the first row of the map that a word agrees with is its instruction's. -/

namespace Sys2Proof

/-! ## A word from its digit and its fields (R53) -/

section digit
variable {w : Word} {d : Nibble}

theorem wordOfNibbles_of_digit (h : digitOf w = d) :
    wordOfNibbles d (regField (regOf (xFieldOf w))) (regField (regOf (yFieldOf w))) (nOf w) = w := by
  subst h
  exact wordOfNibbles_fields w

theorem wordOfByteForm_of_digit (h : digitOf w = d) : wordOfByteForm d (regOf (xFieldOf w)) (nnOf w) = w := by
  subst h
  apply BitVec.eq_of_toNat_eq
  have hx : (regOf (xFieldOf w)).val = w.toNat / 256 % 16 := xFieldOf_toNat w
  rw [wordOfByteForm_toNat, digitOf_toNat, nnOf_toNat, hx]
  omega

theorem wordOfAddrForm_of_digit (h : digitOf w = d) : wordOfAddrForm d (nnnOf w) = w := by
  subst h
  apply BitVec.eq_of_toNat_eq
  rw [wordOfAddrForm_toNat, digitOf_toNat, nnnOf_toNat]
  omega

end digit

theorem wordOfNibbles_inj {d x y n d' x' y' n' : Nibble} :
    wordOfNibbles d x y n = wordOfNibbles d' x' y' n' ↔ d = d' ∧ x = x' ∧ y = y' ∧ n = n' := by
  constructor
  · intro h
    exact ⟨by simpa using congrArg digitOf h, by simpa using congrArg xFieldOf h, by simpa using congrArg yFieldOf h,
      by simpa using congrArg nOf h⟩
  · rintro ⟨rfl, rfl, rfl, rfl⟩
    rfl

theorem wordOfByteForm_inj {d d' : Nibble} {x x' : Reg} {nn nn' : Byte} :
    wordOfByteForm d x nn = wordOfByteForm d' x' nn' ↔ d = d' ∧ x = x' ∧ nn = nn' := by
  constructor
  · intro h
    exact ⟨by simpa using congrArg digitOf h, by simpa using congrArg (regOf <| xFieldOf ·) h,
      by simpa using congrArg nnOf h⟩
  · rintro ⟨rfl, rfl, rfl⟩
    rfl

theorem wordOfAddrForm_inj {d d' : Nibble} {nnn nnn' : Addr} :
    wordOfAddrForm d nnn = wordOfAddrForm d' nnn' ↔ d = d' ∧ nnn = nnn' := by
  constructor
  · intro h
    exact ⟨by simpa using congrArg digitOf h, by simpa using congrArg nnnOf h⟩
  · rintro ⟨rfl, rfl⟩
    rfl

/-! ## The four digits with several rows: 0, 8, E and F (R57 to R60) -/

theorem encode_decode0 (nnn : Addr) : encode (decode0 nnn) = wordOfAddrForm 0x0#4 nnn := by
  unfold decode0
  split <;> rfl

theorem encode_decode8 (x y : Reg) (n : Nibble) :
    encode (decode8 x y n) = wordOfNibbles 0x8#4 (regField x) (regField y) n := by
  unfold decode8
  split <;> rfl

theorem encode_decodeE (x : Reg) (nn : Byte) : encode (decodeE x nn) = wordOfByteForm 0xE#4 x nn := by
  unfold decodeE
  split <;> rfl

theorem encode_decodeF (x : Reg) (nn : Byte) : encode (decodeF x nn) = wordOfByteForm 0xF#4 x nn := by
  unfold decodeF
  split <;> rfl

/-- `unrecognized8` lists the NOP values of n; they are those no row of digit 8 selects on, as for the other digits. -/
theorem unrecognized8_eq : ∀ n : Nibble, unrecognized8 n =
    !(n == 0x0#4 || n == 0x1#4 || n == 0x2#4 || n == 0x3#4 || n == 0x4#4 || n == 0x5#4 || n == 0x6#4 || n == 0x7#4
      || n == 0xE#4) := by
  decide

theorem decode0_wf (nnn : Addr) : (decode0 nnn).wf = true := by
  unfold decode0
  split <;> simp_all [Instr.wf, unrecognized0]

theorem decode8_wf (x y : Reg) (n : Nibble) : (decode8 x y n).wf = true := by
  unfold decode8
  split <;> simp_all [Instr.wf, unrecognized8_eq]

theorem decodeE_wf (x : Reg) (nn : Byte) : (decodeE x nn).wf = true := by
  unfold decodeE
  split <;> simp_all [Instr.wf, unrecognizedE]

theorem decodeF_wf (x : Reg) (nn : Byte) : (decodeF x nn).wf = true := by
  unfold decodeF
  split <;> simp_all [Instr.wf, unrecognizedF]

theorem decode0_of_unrecognized {nnn : Addr} (h : unrecognized0 nnn = true) : decode0 nnn = .nop0 nnn := by
  unfold decode0
  split <;> simp_all [unrecognized0]

theorem decode8_of_unrecognized {n : Nibble} (x y : Reg) (h : unrecognized8 n = true) :
    decode8 x y n = .nop8 x y n := by
  unfold decode8
  split <;> simp_all [unrecognized8_eq]

theorem decodeE_of_unrecognized {nn : Byte} (x : Reg) (h : unrecognizedE nn = true) : decodeE x nn = .nopE x nn := by
  unfold decodeE
  split <;> simp_all [unrecognizedE]

theorem decodeF_of_unrecognized {nn : Byte} (x : Reg) (h : unrecognizedF nn = true) : decodeF x nn = .nopF x nn := by
  unfold decodeF
  split <;> simp_all [unrecognizedF]

/-! ## Decoding and encoding undo each other

The decoder's branches are in the order of the digits: `h_1` is digit 0, `h_16` digit F. -/

theorem decode_wf (w : Word) : (decode w).wf = true := by
  unfold decode
  split
  case h_1 => exact decode0_wf _
  case h_9 => exact decode8_wf _ _ _
  case h_15 => exact decodeE_wf _ _
  case h_16 => exact decodeF_wf _ _
  all_goals rfl

theorem encode_decode (w : Word) : encode (decode w) = w := by
  unfold decode
  split
  case h_1 h => exact (encode_decode0 _).trans (wordOfAddrForm_of_digit h)
  case h_9 h => exact (encode_decode8 _ _ _).trans (wordOfNibbles_of_digit h)
  case h_15 h => exact (encode_decodeE _ _).trans (wordOfByteForm_of_digit h)
  case h_16 =>
    have h : digitOf w = 0xF#4 := by
      simp only [imp_false] at *
      bv_omega
    exact (encode_decodeF _ _).trans (wordOfByteForm_of_digit h)
  case h_2 h | h_3 h | h_11 h | h_12 h => exact wordOfAddrForm_of_digit h
  case h_4 h | h_5 h | h_7 h | h_8 h | h_13 h => exact wordOfByteForm_of_digit h
  case h_6 h | h_10 h | h_14 h => exact wordOfNibbles_of_digit h

theorem decode_encode {i : Instr} (h : i.wf = true) : decode (encode i) = i := by
  cases i
  case nop0 nnn => simpa [decode, encode] using decode0_of_unrecognized h
  case nop8 x y n => simpa [decode, encode] using decode8_of_unrecognized x y h
  case nopE x nn => simpa [decode, encode] using decodeE_of_unrecognized x h
  case nopF x nn => simpa [decode, encode] using decodeF_of_unrecognized x h
  case cls | ret => rfl
  all_goals simp [decode, encode, decode8, decodeE, decodeF]

/-! ## The fields of a word given as a number -/

section ofNat
variable (n : Nat)

@[simp] theorem digitOf_ofNat : digitOf (BitVec.ofNat 16 n) = BitVec.ofNat 4 (n / 4096) := by
  apply BitVec.eq_of_toNat_eq
  simp only [digitOf_toNat, BitVec.toNat_ofNat]
  omega

@[simp] theorem nOf_ofNat : nOf (BitVec.ofNat 16 n) = BitVec.ofNat 4 n := by
  apply BitVec.eq_of_toNat_eq
  simp only [nOf_toNat, BitVec.toNat_ofNat]
  omega

@[simp] theorem nnOf_ofNat : nnOf (BitVec.ofNat 16 n) = BitVec.ofNat 8 n := by
  apply BitVec.eq_of_toNat_eq
  simp only [nnOf_toNat, BitVec.toNat_ofNat]
  omega

@[simp] theorem nnnOf_ofNat : nnnOf (BitVec.ofNat 16 n) = BitVec.ofNat 12 n := by
  apply BitVec.eq_of_toNat_eq
  simp only [nnnOf_toNat, BitVec.toNat_ofNat]
  omega

end ofNat

/-! ## The rows of the map (R63)

Each of the four masks keeps the digit and at most one field more, so a word agrees with a row iff it has the digit and
that field of the row's match. -/

theorem and_maskDigitNnn (w : Word) : w &&& 0xFFFF#16 = wordOfAddrForm (digitOf w) (nnnOf w) :=
  BitVec.and_allOnes.trans (wordOfAddrForm_of_digit rfl).symm

section rows
variable (w : Word) {m mask : Word}

/-- A mask keeps every bit of its row's match, so the match may be masked as well. -/
theorem matchesRow_eq (hm : m &&& mask = m) : matchesRow w (m, mask) = (w &&& mask == m &&& mask) := by
  rw [hm]
  rfl

@[simp] theorem matchesRow_digit (hm : m &&& 0xF000#16 = m) :
    matchesRow w (m, 0xF000#16) = (digitOf w == digitOf m) := by
  rw [matchesRow_eq w hm, and_maskDigit, and_maskDigit, Bool.eq_iff_iff]
  simp [wordOfNibbles_inj]

@[simp] theorem matchesRow_digitN (hm : m &&& 0xF00F#16 = m) :
    matchesRow w (m, 0xF00F#16) = (digitOf w == digitOf m && nOf w == nOf m) := by
  rw [matchesRow_eq w hm, and_maskDigitN, and_maskDigitN, Bool.eq_iff_iff]
  simp [wordOfNibbles_inj]

@[simp] theorem matchesRow_digitNn (hm : m &&& 0xF0FF#16 = m) :
    matchesRow w (m, 0xF0FF#16) = (digitOf w == digitOf m && nnOf w == nnOf m) := by
  rw [matchesRow_eq w hm, and_maskDigitNn, and_maskDigitNn, Bool.eq_iff_iff]
  simp [wordOfByteForm_inj]

@[simp] theorem matchesRow_digitNnn :
    matchesRow w (m, 0xFFFF#16) = (digitOf w == digitOf m && nnnOf w == nnnOf m) := by
  have hm : m &&& 0xFFFF#16 = m := BitVec.and_allOnes
  rw [matchesRow_eq w hm, and_maskDigitNnn, and_maskDigitNnn, Bool.eq_iff_iff]
  simp [wordOfAddrForm_inj]

end rows

/-- An instruction's word fails each row before its own by the digit, or by the field the row selects on; for a NOP that
is what well-formedness says. -/
theorem firstRow_encode {i : Instr} (h : i.wf = true) : firstRow (encode i) = some i.rowNumber := by
  cases i
  case nop0 | nop8 | nopE | nopF =>
    simp [Instr.wf, unrecognized0, unrecognized8_eq, unrecognizedE, unrecognizedF] at h
    simp [firstRow, opcodeMap, List.findIdx?_cons, encode, Instr.rowNumber, h]
  case cls | ret => decide
  all_goals simp [firstRow, opcodeMap, List.findIdx?_cons, encode, Instr.rowNumber]

theorem firstRow_eq (w : Word) : firstRow w = some (decode w).rowNumber := by
  calc firstRow w = firstRow (encode (decode w)) := by rw [encode_decode]
    _ = some (decode w).rowNumber := firstRow_encode (decode_wf w)

/-- Settles O4: the decoder is a bijection from the words to the well-formed instructions with `encode` its inverse, so
the row of every word is the row of its instruction's word. -/
theorem everyWordIsExactlyOneInstruction : Obligations.EveryWordIsExactlyOneInstruction :=
  fun w => ⟨decode_wf w, firstRow_eq w, encode_decode w, fun _ hwf hw => hw ▸ (decode_encode hwf).symm⟩

end Sys2Proof
end

section
/-! The word of an instruction as a number (30_encoding.md R53): one lemma for each of the three formats. -/

namespace Sys2Proof

/-- What `encodedAs` asks of a well-formed instruction is only the number: the decoder reads every such word back. -/
theorem Instr.encodedAs_of_wf {i : Instr} {k : Nat} (hwf : i.wf = true) (hk : (encode i).toNat = k) : i.encodedAs k :=
  ⟨hk, decode_encode hwf⟩

theorem Instr.encodedAs_of_addrForm {i : Instr} (d : Nibble) {nnn : Addr} (hwf : i.wf = true)
    (he : encode i = wordOfAddrForm d nnn) : i.encodedAs (d.toNat * 4096 + nnn.toNat) :=
  Instr.encodedAs_of_wf hwf (he ▸ wordOfAddrForm_toNat d nnn)

theorem Instr.encodedAs_of_byteForm {i : Instr} (d : Nibble) {x : Reg} {nn : Byte} (hwf : i.wf = true)
    (he : encode i = wordOfByteForm d x nn) : i.encodedAs (d.toNat * 4096 + x.val * 256 + nn.toNat) :=
  Instr.encodedAs_of_wf hwf (he ▸ wordOfByteForm_toNat d x nn)

theorem Instr.encodedAs_of_nibbles {i : Instr} (d : Nibble) {x y : Reg} {n : Nibble} (hwf : i.wf = true)
    (he : encode i = wordOfNibbles d (regField x) (regField y) n) :
    i.encodedAs (d.toNat * 4096 + x.val * 256 + y.val * 16 + n.toNat) :=
  Instr.encodedAs_of_wf hwf (he ▸ wordOfNibbles_toNat d (regField x) (regField y) n)

end Sys2Proof
end

section
/-! Control transfer (41_control_flow.md R88 to R95): the next state of each instruction that writes the pc, in the terms
of the shared operations, and the six statements of the family from the rules of those operations. -/

namespace Sys2Proof.Machine

variable (s : State)

/-! ## The next state of each instruction -/

theorem exec_ret_of_stack_eq_nil {s : State} (h : s.stack = []) : exec .ret s = .next (s.raise .stackUnderflow) := by
  simp only [exec, execRet, h]

theorem exec_ret_of_stack_eq_cons {s : State} {top : Word} {rest : List Word} (h : s.stack = top :: rest) :
    exec .ret s = .next ((s.setStack rest).setPc top) := by
  simp only [exec, execRet, h]

theorem exec_jp (nnn : Addr) : exec (.jp nnn) s = .next (s.jump (addrWord nnn)) := rfl

theorem exec_call_of_room {s : State} (h : s.stack.length < s.cfg.maxStackDepth) (nnn : Addr) :
    exec (.call nnn) s = .next ((s.setStack (s.pc :: s.stack)).jump (addrWord nnn)) :=
  if_neg (Nat.not_le.2 h)

/-- At the maximum depth or, by the model's reading (log 4), past it. -/
theorem exec_call_of_full {s : State} (h : s.cfg.maxStackDepth ≤ s.stack.length) (nnn : Addr) :
    exec (.call nnn) s = .next (s.raise .stackOverflow) :=
  if_pos h

theorem exec_seImm (x : Reg) (nn : Byte) : exec (.seImm x nn) s = .next (s.skipIf (s.reg x == nn)) := rfl

theorem exec_sneImm (x : Reg) (nn : Byte) : exec (.sneImm x nn) s = .next (s.skipIf (s.reg x != nn)) := rfl

theorem exec_seReg (x y : Reg) (n : Nibble) : exec (.seReg x y n) s = .next (s.skipIf (s.reg x == s.reg y)) := rfl

theorem exec_sneReg (x y : Reg) (n : Nibble) : exec (.sneReg x y n) s = .next (s.skipIf (s.reg x != s.reg y)) := rfl

theorem exec_jpV0 (nnn : Addr) : exec (.jpV0 nnn) s = .next (s.jump (s.offsetTarget nnn)) := rfl

/-! ## The pc after a skip, and the frames of a return and of a call -/

theorem State.skipIf_beq_pc (a b : Byte) : (s.skipIf (a == b)).pc = if a = b then s.pc + 2 else s.pc := by
  simp only [State.skipIf_pc, beq_iff_eq]

theorem State.skipIf_bne_pc (a b : Byte) : (s.skipIf (a != b)).pc = if a = b then s.pc else s.pc + 2 := by
  simp only [State.skipIf_pc, bne_iff_ne, ite_not]

theorem State.sameExcept_setStack_setPc (l : List Word) (w : Word) :
    State.SameExcept [.pc, .stack] s ((s.setStack l).setPc w) :=
  ((s.sameExcept_setStack l).mono (by simp)).trans (((s.setStack l).sameExcept_setPc w).mono (by simp))

theorem State.sameExcept_setStack_jump (l : List Word) (w : Word) :
    State.SameExcept [.stack, .pc, .didJump] s ((s.setStack l).jump w) :=
  ((s.sameExcept_setStack l).mono (by simp)).trans (((s.setStack l).sameExcept_jump w).mono (by simp))

/-! ## The offset register of Bnnn -/

theorem offsetReg_eq_zero {cfg : Config} (h : cfg.jumpUsesVx = false) (nnn : Addr) : offsetReg cfg nnn = 0 := by
  simp [offsetReg, h]

/-- Whichever the offset register is, Bnnn adds it: the two values of JUMP_USES_VX differ in nothing else (R95). -/
theorem exec_jpV0_of_offsetReg {s : State} {nnn : Addr} {r : Reg} (h : offsetReg s.cfg nnn = r) :
    ∃ t, exec (.jpV0 nnn) s = .next t ∧ t.pc.toNat = nnn.toNat + (s.reg r).toNat ∧ t.didJump = true ∧
      State.SameExcept [.pc, .didJump] s t := by
  subst h
  exact ⟨_, exec_jpV0 s nnn, s.offsetTarget_toNat nnn, rfl, s.sameExcept_jump _⟩

/-! ## The statements -/

/-- Settles O30, by whether the stack has an entry to pop. -/
theorem returnPopsThePc : Obligations.ReturnPopsThePc :=
  ⟨Instr.encodedAs_of_wf rfl rfl,
    fun s _ _ h => ⟨_, exec_ret_of_stack_eq_cons h, rfl, rfl, s.sameExcept_setStack_setPc _ _⟩,
    fun s h => ⟨_, exec_ret_of_stack_eq_nil h, rfl, s.sameExcept_raise _⟩⟩

/-- Settles O31: the address field, zero-extended, is the target of the shared jump. -/
theorem jumpSetsThePc : Obligations.JumpSetsThePc := fun nnn =>
  ⟨Instr.encodedAs_of_addrForm 0x1#4 rfl rfl,
    fun s => ⟨_, exec_jp s nnn, addrWord_toNat nnn, rfl, s.sameExcept_jump _⟩⟩

/-- Settles O32, by whether the stack has room for one entry more. -/
theorem callPushesThePc : Obligations.CallPushesThePc := fun nnn =>
  ⟨Instr.encodedAs_of_addrForm 0x2#4 rfl rfl,
    fun s h => ⟨_, exec_call_of_room h nnn, rfl, addrWord_toNat nnn, rfl, s.sameExcept_setStack_jump _ _⟩,
    fun s h => ⟨_, exec_call_of_full h.ge nnn, rfl, s.sameExcept_raise _⟩⟩

/-- Settles O33: both are the shared skip, on the test of the register against the byte or on its negation. -/
theorem immediateSkips : Obligations.ImmediateSkips := fun x nn =>
  ⟨Instr.encodedAs_of_byteForm 0x3#4 rfl rfl, Instr.encodedAs_of_byteForm 0x4#4 rfl rfl, fun s =>
    ⟨⟨_, exec_seImm s x nn, s.skipIf_beq_pc _ _, s.sameExcept_skipIf _⟩,
      ⟨_, exec_sneImm s x nn, s.skipIf_bne_pc _ _, s.sameExcept_skipIf _⟩⟩⟩

/-- Settles O34: both are the shared skip, on the test of the two registers or on its negation; n is in the word alone. -/
theorem registerSkips : Obligations.RegisterSkips := fun x y n =>
  ⟨Instr.encodedAs_of_nibbles 0x5#4 rfl rfl, Instr.encodedAs_of_nibbles 0x9#4 rfl rfl, fun s =>
    ⟨⟨_, exec_seReg s x y n, s.skipIf_beq_pc _ _, s.sameExcept_skipIf _⟩,
      ⟨_, exec_sneReg s x y n, s.skipIf_bne_pc _ _, s.sameExcept_skipIf _⟩⟩⟩

/-- Settles O35, by the quirk: it only chooses the register that Bnnn adds. -/
theorem jumpAddsTheOffsetRegister : Obligations.JumpAddsTheOffsetRegister := fun nnn =>
  ⟨Instr.encodedAs_of_addrForm 0xB#4 rfl rfl,
    fun _ h => exec_jpV0_of_offsetReg (offsetReg_eq_zero h nnn),
    fun s _ h hr => exec_jpV0_of_offsetReg (Fin.ext ((offsetReg_val s.cfg nnn h).trans hr.symm))⟩

end Sys2Proof.Machine
end

section
/-! Loads, arithmetic and random (42_alu.md R96 to R110): the next state of each instruction of the family, what the
result and the flag of the group 8xyn leave in the registers, and the eight statements from those rules. -/

namespace Sys2Proof

/-- The word of a digit-8 instruction as R63 prints it: the row's match and then the two register fields. -/
theorem Instr.encodedAs_of_digit8 {i : Instr} {x y : Reg} (n : Nibble) (hwf : i.wf = true)
    (he : encode i = wordOfNibbles 0x8#4 (regField x) (regField y) n) :
    i.encodedAs (0x8000 + n.toNat + x.val * 256 + y.val * 16) := by
  have h := Instr.encodedAs_of_nibbles 0x8#4 hwf he
  rwa [add_right_comm _ _ n.toNat, add_right_comm _ _ n.toNat] at h

end Sys2Proof

namespace Sys2Proof.Machine

variable (s : State)

/-! ## The next state of each instruction -/

theorem exec_ldImm (x : Reg) (nn : Byte) : exec (.ldImm x nn) s = .next (s.setReg x nn) := rfl

theorem exec_addImm (x : Reg) (nn : Byte) : exec (.addImm x nn) s = .next (s.setReg x (s.reg x + nn)) := rfl

theorem exec_ldReg (x y : Reg) : exec (.ldReg x y) s = .next (s.setRegFlag x (s.reg y) clearedFlag) := rfl

theorem exec_orReg (x y : Reg) :
    exec (.orReg x y) s = .next (s.setRegFlag x (s.reg x ||| s.reg y) clearedFlag) := rfl

theorem exec_andReg (x y : Reg) :
    exec (.andReg x y) s = .next (s.setRegFlag x (s.reg x &&& s.reg y) clearedFlag) := rfl

theorem exec_xorReg (x y : Reg) :
    exec (.xorReg x y) s = .next (s.setRegFlag x (s.reg x ^^^ s.reg y) clearedFlag) := rfl

theorem exec_addReg (x y : Reg) :
    exec (.addReg x y) s = .next (s.setRegFlag x (s.reg x + s.reg y) (carryFlag (s.reg x) (s.reg y))) := rfl

theorem exec_subReg (x y : Reg) :
    exec (.subReg x y) s = .next (s.setRegFlag x (s.reg x - s.reg y) (noBorrowFlag (s.reg x) (s.reg y))) := rfl

theorem exec_subn (x y : Reg) :
    exec (.subn x y) s = .next (s.setRegFlag x (s.reg y - s.reg x) (noBorrowFlag (s.reg y) (s.reg x))) := rfl

theorem exec_shr (x y : Reg) : exec (.shr x y) s =
    .next (s.setRegFlag x (s.shiftOperand x y >>> 1) (shiftedOutRight (s.shiftOperand x y))) := rfl

theorem exec_shl (x y : Reg) : exec (.shl x y) s =
    .next (s.setRegFlag x (s.shiftOperand x y <<< 1) (shiftedOutLeft (s.shiftOperand x y))) := rfl

theorem exec_rnd (x : Reg) (nn : Byte) : exec (.rnd x nn) s =
    .next ((s.setReg x (Config.randomByte s.draws &&& nn)).setDraws (s.draws + 1)) := rfl

/-! ## Results and flags as numbers -/

theorem byte_sub_toNat (a b : Byte) : (a - b).toNat = (a.toNat + 256 - b.toNat) % 256 := by
  have := b.isLt
  rw [BitVec.toNat_sub]
  omega

theorem byte_shiftRight_one_toNat (a : Byte) : (a >>> 1).toNat = a.toNat / 2 := by
  rw [BitVec.toNat_ushiftRight, Nat.shiftRight_eq_div_pow]

theorem byte_shiftLeft_one_toNat (a : Byte) : (a <<< 1).toNat = a.toNat * 2 % 256 := by
  rw [BitVec.toNat_shiftLeft, Nat.shiftLeft_eq]

theorem flagByte_decide (p : Prop) [Decidable p] : flagByte (decide p) = if p then 1 else 0 := by
  simp only [flagByte, decide_eq_true_eq]
  rfl

/-! ## The registers after a result and its flag -/

theorem State.reg_setReg_self (x : Reg) (b : Byte) : (s.setReg x b).reg x = b :=
  (s.reg_setReg x x b).trans (if_pos rfl)

/-- The whole of what an instruction of the group 8xyn does: the result, unless the flag overwrites it, and the flag
(R97). -/
theorem exec_of_setRegFlag {s : State} {i : Instr} {x : Reg} {a b : Byte}
    (h : exec i s = .next (s.setRegFlag x a b)) :
    ∃ t, exec i s = .next t ∧ (x ≠ 15 → t.reg x = a) ∧ t.reg 15 = b ∧
      State.SameExcept [.reg x, .reg 15] s t := by
  refine ⟨_, h, fun hx => ?_, ?_, s.sameExcept_setRegFlag x a b⟩
  · exact (s.reg_setRegFlag x x a b).trans ((if_neg hx).trans (if_pos rfl))
  · exact (s.reg_setRegFlag x regVF a b).trans (if_pos rfl)

/-- 8xy5 and 8xy7 are one subtraction of two bytes, with the operands in either order (R105, R107). -/
theorem exec_of_subtraction {s : State} {i : Instr} {x : Reg} {a b : Byte}
    (h : exec i s = .next (s.setRegFlag x (a - b) (noBorrowFlag a b))) :
    ∃ t, exec i s = .next t ∧ (x ≠ 15 → (t.reg x).toNat = (a.toNat + 256 - b.toNat) % 256) ∧
      t.reg 15 = (if b.toNat ≤ a.toNat then 1 else 0) ∧ State.SameExcept [.reg x, .reg 15] s t := by
  obtain ⟨t, ht, hres, hflag, hframe⟩ := exec_of_setRegFlag h
  exact ⟨t, ht, fun hx => by rw [hres hx, byte_sub_toNat], hflag.trans (flagByte_decide _), hframe⟩

/-- A draw from the random source writes its register and the count of draws. -/
theorem State.sameExcept_setReg_setDraws (x : Reg) (b : Byte) (n : Nat) :
    State.SameExcept [.reg x, .draws] s ((s.setReg x b).setDraws n) :=
  ((s.sameExcept_setReg x b).mono (by simp)).trans (((s.setReg x b).sameExcept_setDraws n).mono (by simp))

/-! ## The statements -/

/-- Settles O36: one register write. -/
theorem loadImmediateTakesTheByte : Obligations.LoadImmediateTakesTheByte := fun x nn =>
  ⟨Instr.encodedAs_of_byteForm 0x6#4 rfl rfl,
    fun s => ⟨_, exec_ldImm s x nn, s.reg_setReg_self x nn, s.sameExcept_setReg x nn⟩⟩

/-- Settles O37: one register write, of the sum of the bytes. -/
theorem addImmediateHasNoFlag : Obligations.AddImmediateHasNoFlag := fun x nn =>
  ⟨Instr.encodedAs_of_byteForm 0x7#4 rfl rfl, fun s =>
    ⟨_, exec_addImm s x nn, by rw [State.reg_setReg_self, BitVec.toNat_add], s.sameExcept_setReg x _⟩⟩

/-- Settles O38: each of the four is a result and the cleared flag. -/
theorem logicGroupClearsVF : Obligations.LogicGroupClearsVF := fun x y =>
  ⟨Instr.encodedAs_of_digit8 0x0#4 rfl rfl, Instr.encodedAs_of_digit8 0x1#4 rfl rfl,
    Instr.encodedAs_of_digit8 0x2#4 rfl rfl, Instr.encodedAs_of_digit8 0x3#4 rfl rfl, fun s =>
    ⟨exec_of_setRegFlag (exec_ldReg s x y), exec_of_setRegFlag (exec_orReg s x y),
      exec_of_setRegFlag (exec_andReg s x y), exec_of_setRegFlag (exec_xorReg s x y)⟩⟩

/-- Settles O39: the sum of two bytes, and the carry last. -/
theorem addSetsTheCarry : Obligations.AddSetsTheCarry := fun x y =>
  ⟨Instr.encodedAs_of_digit8 0x4#4 rfl rfl, fun s => by
    obtain ⟨t, ht, hres, hflag, hframe⟩ := exec_of_setRegFlag (exec_addReg s x y)
    exact ⟨t, ht, fun hx => by rw [hres hx, BitVec.toNat_add], hflag.trans (flagByte_decide _), hframe⟩⟩

/-- Settles O40: the shared subtraction, V[x] first. -/
theorem subtractSetsNoBorrow : Obligations.SubtractSetsNoBorrow := fun x y =>
  ⟨Instr.encodedAs_of_digit8 0x5#4 rfl rfl, fun s => exec_of_subtraction (exec_subReg s x y)⟩

/-- Settles O41: the shared subtraction, V[y] first. -/
theorem reverseSubtractSetsNoBorrow : Obligations.ReverseSubtractSetsNoBorrow := fun x y =>
  ⟨Instr.encodedAs_of_digit8 0x7#4 rfl rfl, fun s => exec_of_subtraction (exec_subn s x y)⟩

/-- Settles O42: the quirk only chooses the operand, which `State.shiftOperand` is under either value. -/
theorem shiftsSetTheBitShiftedOut : Obligations.ShiftsSetTheBitShiftedOut := by
  refine fun x y => ⟨Instr.encodedAs_of_digit8 0x6#4 rfl rfl, Instr.encodedAs_of_digit8 0xE#4 rfl rfl, ?_⟩
  intro s src hsrc
  have hop : s.shiftOperand x y = src := hsrc.symm
  constructor
  · obtain ⟨t, ht, hres, hflag, hframe⟩ := exec_of_setRegFlag (exec_shr s x y)
    rw [hop] at hres hflag
    exact ⟨t, ht, fun hx => by rw [hres hx, byte_shiftRight_one_toNat], by rw [hflag, shiftedOutRight_toNat], hframe⟩
  · obtain ⟨t, ht, hres, hflag, hframe⟩ := exec_of_setRegFlag (exec_shl s x y)
    rw [hop] at hres hflag
    exact ⟨t, ht, fun hx => by rw [hres hx, byte_shiftLeft_one_toNat], by rw [hflag, shiftedOutLeft_toNat], hframe⟩

/-- Settles O43: one register write, of the byte under the mask, and one draw counted. -/
theorem randomIsOneMaskedByte : Obligations.RandomIsOneMaskedByte := fun x nn =>
  ⟨Instr.encodedAs_of_byteForm 0xC#4 rfl rfl, fun s =>
    ⟨_, exec_rnd s x nn, s.reg_setReg_self x _, rfl, s.sameExcept_setReg_setDraws x _ _⟩⟩

end Sys2Proof.Machine
end

section
/-! The display (43_display.md R112, R114, R118): where a row's pixels are after a shift, what each mode of the row mask
is as a shift, the next state of a clear and of a draw whose bytes are in memory, and the three statements. -/

namespace Sys2Proof.Machine

variable (s : State)

/-! ## The pixels of a row, by column (R111, R114) -/

/-- The sprite byte put at the left edge: its pixel k is at column k, and no pixel is at a column past 7. -/
theorem leftAligned_getLsbD (b : Byte) {c : Nat} (hc : c < 64) :
    (b.setWidth 64 <<< 56 : Row).getLsbD (63 - c) = (decide (c < 8) && b.getLsbD (7 - c)) := by
  rw [BitVec.getLsbD_shiftLeft, BitVec.getLsbD_setWidth]
  by_cases h : c < 8
  · have hcol : 63 - c - 56 = 7 - c := by omega
    have hin : 63 - c < 64 ∧ ¬63 - c < 56 ∧ 7 - c < 64 := by omega
    simp [h, hcol, hin]
  · have hpast : 63 - c < 56 := by omega
    simp [h, hpast]

/-- A right shift moves every pixel `cx` columns to the right, and pixels past column 63 are lost. -/
theorem row_getLsbD_ushiftRight (t : Row) (cx : Nat) {c : Nat} (hc : c < 64) :
    (t >>> cx).getLsbD (63 - c) = (decide (cx ≤ c) && t.getLsbD (63 - (c - cx))) := by
  rw [BitVec.getLsbD_ushiftRight]
  by_cases h : cx ≤ c
  · have hcol : cx + (63 - c) = 63 - (c - cx) := by omega
    simp [h, hcol]
  · have hpast : t.getLsbD (cx + (63 - c)) = false := BitVec.getLsbD_of_ge _ _ (by omega)
    simp [h, hpast]

/-- A rotation moves every pixel `cx` columns to the right, modulo the 64 columns. -/
theorem row_getLsbD_rotateRight (t : Row) {cx c : Nat} (hcx : cx < 64) (hc : c < 64) :
    (t.rotateRight cx).getLsbD (63 - c) = t.getLsbD (63 - (c + 64 - cx) % 64) := by
  rw [BitVec.getLsbD_rotateRight, Nat.mod_eq_of_lt hcx]
  by_cases h : cx ≤ c
  · have hcol : cx + (63 - c) = 63 - (c + 64 - cx) % 64 := by omega
    rw [decide_eq_true (by omega), cond_true, hcol]
  · have hcol : 63 - c - (64 - cx) = 63 - (c + 64 - cx) % 64 := by omega
    rw [decide_eq_false (by omega), cond_false, decide_eq_true (by omega), Bool.true_and, hcol]

/-! ## The row mask in each mode (R114) -/

theorem rowMask_clip (b : Byte) (cx : Nat) : rowMask .clip b cx = (b.setWidth 64 <<< 56 : Row) >>> cx := rfl

theorem rowMask_wrap (b : Byte) {cx : Nat} (hcx : cx < 64) :
    rowMask .wrap b cx = (b.setWidth 64 <<< 56 : Row).rotateRight cx := by
  rw [BitVec.rotateRight_def, Nat.mod_eq_of_lt hcx]
  rfl

/-! ## The next state of each instruction -/

theorem exec_cls : exec .cls s = .next ((s.setFb (Vector.replicate 32 0#64)).setDirty true) := rfl

theorem exec_drw_of_fits {s : State} {n : Nibble} (h : n.toNat = 0 ∨ s.i.toNat + n.toNat ≤ 0x1000) (x y : Reg) :
    exec (.drw x y n) s = .next
      (((s.setFb (s.drawn x y n).fb).setReg regVF (collisionFlag (s.drawn x y n).collided)).setDirty true) :=
  congrArg Host.Outcome.next (s.checked_of_fits h _)

/-- A sprite of no rows is drawn by leaving the framebuffer as it is, without a collision (R118). -/
theorem State.drawn_zero (x y : Reg) : s.drawn x y 0 = { fb := s.fb, collided := false } := rfl

theorem exec_drw_zero (x y : Reg) : exec (.drw x y 0) s = .next ((s.setReg regVF 0).setDirty true) := by
  rw [exec_drw_of_fits (.inl rfl), State.drawn_zero]
  rfl

/-! ## The frames of a clear and of a draw of no rows -/

theorem State.sameExcept_setFb_setDirty (f : Framebuffer) (b : Bool) :
    State.SameExcept (.dirty :: allRows) s ((s.setFb f).setDirty b) :=
  ((s.sameExcept_setFb f).mono fun _ => List.mem_cons_of_mem _).trans
    (((s.setFb f).sameExcept_setDirty b).mono (by simp))

theorem State.sameExcept_setReg_setDirty (r : Reg) (a : Byte) (b : Bool) :
    State.SameExcept [.reg r, .dirty] s ((s.setReg r a).setDirty b) :=
  ((s.sameExcept_setReg r a).mono (by simp)).trans (((s.setReg r a).sameExcept_setDirty b).mono (by simp))

/-! ## The statements -/

/-- Settles O45: under Clip the mask is the left-aligned byte shifted right, under Wrap it is that byte rotated right,
and each moves the pixels as its mode says. -/
theorem rowMaskPlacesThePixels : Obligations.RowMaskPlacesThePixels := by
  intro b cx c hcx
  constructor
  · rw [rowMask_clip, row_getLsbD_ushiftRight _ _ c.isLt, leftAligned_getLsbD b (by omega), Bool.decide_and,
      Bool.and_assoc]
  · rw [rowMask_wrap b hcx, row_getLsbD_rotateRight _ hcx c.isLt, leftAligned_getLsbD b (Nat.mod_lt _ (by decide))]

/-- Settles O44: the framebuffer becomes 32 rows of 0, whatever it was. -/
theorem clearScreenClearsEveryRow : Obligations.ClearScreenClearsEveryRow :=
  ⟨Instr.encodedAs_of_wf rfl rfl, fun s =>
    ⟨_, exec_cls s, fun _ => Vector.getElem_replicate _, rfl, s.sameExcept_setFb_setDirty _ _⟩⟩

/-- Settles O48: a draw of no rows passes the address check whatever I is, and comes to VF and `dirty`. -/
theorem drawOfNoRowsClearsVF : Obligations.DrawOfNoRowsClearsVF := fun x y s =>
  ⟨_, exec_drw_zero s x y, s.reg_setReg_self regVF 0, rfl, s.sameExcept_setReg_setDirty regVF 0 true⟩

end Sys2Proof.Machine
end

section
/-! Keys and timers (44_keys_timers.md R119, R120, R122 to R124, R149): what a key skip does with a value that names a
key and with one that names none, the next state of each instruction, and the two statements from those rules. -/

namespace Sys2Proof

/-- The word of an instruction of digit E or F as R63 prints it: the row's match and then the register field. -/
theorem Instr.encodedAs_of_digitNn {i : Instr} {x : Reg} (d : Nibble) (nn : Byte) (hwf : i.wf = true)
    (he : encode i = wordOfByteForm d x nn) : i.encodedAs (d.toNat * 4096 + nn.toNat + x.val * 256) := by
  have h := Instr.encodedAs_of_byteForm d hwf he
  rwa [add_right_comm] at h

end Sys2Proof

namespace Sys2Proof.Machine

/-! ## The key skips (R119, R120) -/

section keySkip
variable {s : State} {x : Reg}

theorem State.keySkip_of_key {k : Key} (h : (s.reg x).toNat = k.val) (cond : Key → Bool) :
    s.keySkip x cond = s.skipIf (cond k) := by
  unfold State.keySkip
  rw [(keyOf_eq_some_iff _ k).2 h]

/-- A value above 15 names no key (D17). -/
theorem State.keySkip_of_no_key (h : 15 < (s.reg x).toNat) (cond : Key → Bool) :
    s.keySkip x cond = s.raise (.keyOutOfRange (s.reg x).toNat) := by
  unfold State.keySkip
  rw [(keyOf_eq_none_iff _).2 h]

theorem exec_skp_of_key {k : Key} (h : (s.reg x).toNat = k.val) :
    exec (.skp x) s = .next (s.skipIf (s.keyHeld k)) :=
  congrArg Host.Outcome.next (State.keySkip_of_key h _)

theorem exec_sknp_of_key {k : Key} (h : (s.reg x).toNat = k.val) :
    exec (.sknp x) s = .next (s.skipIf (!s.keyHeld k)) :=
  congrArg Host.Outcome.next (State.keySkip_of_key h _)

theorem exec_skp_of_no_key (h : 15 < (s.reg x).toNat) :
    exec (.skp x) s = .next (s.raise (.keyOutOfRange (s.reg x).toNat)) :=
  congrArg Host.Outcome.next (State.keySkip_of_no_key h _)

theorem exec_sknp_of_no_key (h : 15 < (s.reg x).toNat) :
    exec (.sknp x) s = .next (s.raise (.keyOutOfRange (s.reg x).toNat)) :=
  congrArg Host.Outcome.next (State.keySkip_of_no_key h _)

end keySkip

variable (s : State)

theorem State.skipIf_not_pc (c : Bool) : (s.skipIf (!c)).pc = if c = true then s.pc else s.pc + 2 := by
  cases c <;> rfl

/-! ## The timers (R122 to R124, R149) -/

theorem exec_ldVxDt (x : Reg) : exec (.ldVxDt x) s = .next (s.setReg x s.dt) := rfl

theorem exec_ldDtVx (x : Reg) : exec (.ldDtVx x) s = .next (s.setDt (s.reg x)) := rfl

theorem exec_ldStVx (x : Reg) : exec (.ldStVx x) s = .next (s.setSt (s.reg x)) := rfl

theorem State.soundActive_iff : s.soundActive = true ↔ s.st ≠ 0 := by
  rw [State.soundActive, decide_eq_true_iff, Nat.pos_iff_ne_zero]
  exact not_congr (BitVec.toNat_inj (y := 0))

/-! ## The statements -/

/-- Settles O50, by whether V[x] names a key: if so each is the shared skip, on the key's held bit or on its negation,
and if not each is the shared error. -/
theorem keySkipsReadTheSnapshot : Obligations.KeySkipsReadTheSnapshot := fun _ =>
  ⟨Instr.encodedAs_of_digitNn 0xE#4 0x9E#8 rfl rfl, Instr.encodedAs_of_digitNn 0xE#4 0xA1#8 rfl rfl,
    fun s k h =>
      ⟨⟨_, exec_skp_of_key h, s.skipIf_pc _, s.sameExcept_skipIf _⟩,
        ⟨_, exec_sknp_of_key h, s.skipIf_not_pc (s.keyHeld k), s.sameExcept_skipIf _⟩⟩,
    fun s h =>
      ⟨⟨_, exec_skp_of_no_key h, rfl, s.sameExcept_raise _⟩,
        ⟨_, exec_sknp_of_no_key h, rfl, s.sameExcept_raise _⟩⟩⟩

/-- Settles O52: each is one write, to a register or to a timer, and the sound is active while its timer is not 0. -/
theorem timerTransfers : Obligations.TimerTransfers := fun x =>
  ⟨Instr.encodedAs_of_digitNn 0xF#4 0x07#8 rfl rfl, Instr.encodedAs_of_digitNn 0xF#4 0x15#8 rfl rfl,
    Instr.encodedAs_of_digitNn 0xF#4 0x18#8 rfl rfl, fun s =>
    ⟨⟨_, exec_ldVxDt s x, s.reg_setReg_self x s.dt, s.sameExcept_setReg x s.dt⟩,
      ⟨_, exec_ldDtVx s x, rfl, s.sameExcept_setDt _⟩,
      ⟨_, exec_ldStVx s x, rfl, State.soundActive_iff _, s.sameExcept_setSt _⟩⟩⟩

end Sys2Proof.Machine
end

section
/-! Index register and memory blocks (45_index_memory.md R125 to R130): what a block of bytes written is when it is read
back, the next state of each instruction, and the six statements from those rules. -/

namespace Sys2Proof.Machine

variable (s : State)

/-! ## The next state of each instruction -/

theorem exec_ldI (nnn : Addr) : exec (.ldI nnn) s = .next (s.setI (addrWord nnn)) := rfl

theorem exec_addI_of_overflow {s : State} {x : Reg} (h : 0xFFFF < s.indexSum x) (hm : s.cfg.indexOverflow = .fault) :
    exec (.addI x) s = .next (s.raise (.indexOverflow (s.indexSum x))) :=
  if_pos ⟨h, hm⟩

theorem exec_addI_of_no_error {s : State} {x : Reg} (h : ¬(0xFFFF < s.indexSum x ∧ s.cfg.indexOverflow = .fault)) :
    exec (.addI x) s = .next (s.setI (BitVec.ofNat 16 (s.indexSum x))) :=
  if_neg h

theorem exec_ldF (x : Reg) : exec (.ldF x) s = .next (s.setI (glyphAddr s.cfg (s.reg x))) := rfl

theorem exec_ldB_of_fits {s : State} (h : s.i.toNat + 3 ≤ 0x1000) (x : Reg) :
    exec (.ldB x) s = .next (s.writeBytes s.i.toNat (bcdDigits (s.reg x))) :=
  congrArg Host.Outcome.next (s.checked_of_fits (.inr h) _)

theorem exec_storeRegs_of_fits {s : State} {x : Reg} (h : s.i.toNat + blockLen x ≤ 0x1000) :
    exec (.storeRegs x) s = .next ((s.writeBytes s.i.toNat (s.blockBytes x)).setI (s.indexAfterStore x)) :=
  congrArg Host.Outcome.next (s.checked_of_fits (.inr h) _)

theorem exec_loadRegs_of_fits {s : State} {x : Reg} (h : s.i.toNat + blockLen x ≤ 0x1000) :
    exec (.loadRegs x) s = .next (s.setV (s.blockLoaded x)) :=
  congrArg Host.Outcome.next (s.checked_of_fits (.inr h) _)

/-- An instruction that checks its addresses first and meets one above 0xFFF does nothing but record it (R38, R82). -/
theorem exec_of_checked_past {s : State} {i : Instr} {a n : Nat} {f : State → State}
    (hi : exec i s = .next (s.checked a n f)) (hn : n ≠ 0) (h : 0x1000 < a + n) :
    ∃ t, exec i s = .next t ∧ t.faulted = some (.memOutOfBounds (max a 0x1000)) ∧ State.SameExcept [.faulted] s t :=
  ⟨_, hi.trans (congrArg Host.Outcome.next (s.checked_of_past hn h f)), rfl, s.sameExcept_raise _⟩

/-! ## The index register -/

/-- Without the error the index takes the sum modulo 65536, whichever the overflow mode is (R126). -/
theorem exec_addI_index {s : State} {x : Reg} (h : ¬(0xFFFF < s.indexSum x ∧ s.cfg.indexOverflow = .fault)) :
    ∃ t, exec (.addI x) s = .next t ∧ t.i.toNat = (s.i.toNat + (s.reg x).toNat) % 0x10000 ∧
      State.SameExcept [.index] s t :=
  ⟨_, exec_addI_of_no_error h, BitVec.toNat_ofNat _ _, s.sameExcept_setI _⟩

theorem State.indexAfterStore_of_stays {s : State} (h : s.cfg.storeIncrementsI = false) (x : Reg) :
    s.indexAfterStore x = s.i := by
  simp [State.indexAfterStore, h]

/-- The index moves past the block without wrapping: the block lies in memory. -/
theorem State.indexAfterStore_toNat {s : State} {x : Reg} (h : s.i.toNat + blockLen x ≤ 0x1000)
    (hq : s.cfg.storeIncrementsI = true) : (s.indexAfterStore x).toNat = s.i.toNat + blockLen x := by
  rw [State.indexAfterStore, if_pos hq, BitVec.toNat_add, BitVec.toNat_ofNat]
  omega

/-! ## Bytes written and read back -/

/-- The k-th byte of a list written from an address on is at that address plus k. -/
theorem State.readByte_writeBytes_add (a : Nat) {l : List Byte} {k : Nat} (h : k < l.length) :
    (s.writeBytes a l).readByte (a + k) = l[k] := by
  rw [State.readByte_writeBytes, dif_pos (by omega)]
  simp only [Nat.add_sub_cancel_left]

theorem State.readByte_writeBytes_blockBytes (a : Nat) {x k : Reg} (h : k ≤ x) :
    (s.writeBytes a (s.blockBytes x)).readByte (a + k.val) = s.reg k := by
  have hk : k.val < (s.blockBytes x).length := by
    rw [State.blockBytes_length]
    exact Nat.lt_succ_of_le h
  rw [State.readByte_writeBytes_add s a hk, State.blockBytes_getElem]

theorem State.sameExcept_writeBytes_blockBytes (a : Nat) (x : Reg) :
    State.SameExcept (bytesFrom a (blockLen x)) s (s.writeBytes a (s.blockBytes x)) :=
  s.blockBytes_length x ▸ s.sameExcept_writeBytes a (s.blockBytes x)

/-- The digits are read back whole, for each of them fits a byte (R128). -/
theorem State.readByte_writeBytes_bcdDigits (a : Nat) (b : Byte) :
    ((s.writeBytes a (bcdDigits b)).readByte a).toNat = b.toNat / 100 ∧
      ((s.writeBytes a (bcdDigits b)).readByte (a + 1)).toNat = b.toNat / 10 % 10 ∧
      ((s.writeBytes a (bcdDigits b)).readByte (a + 2)).toNat = b.toNat % 10 := by
  have hread (k : Nat) (hk : k < 3) :
      ((s.writeBytes a (bcdDigits b)).readByte (a + k)).toNat = ((bcdDigits b)[k]'hk).toNat :=
    congrArg BitVec.toNat (s.readByte_writeBytes_add a hk)
  have hb := b.isLt
  refine ⟨?_, ?_, ?_⟩
  · exact (hread 0 (by decide)).trans (Nat.mod_eq_of_lt (by omega))
  · exact (hread 1 (by decide)).trans (Nat.mod_eq_of_lt (by omega))
  · exact (hread 2 (by decide)).trans (Nat.mod_eq_of_lt (by omega))

/-! ## The registers loaded -/

theorem reg_mem_regsTo {x r : Reg} : Part.reg r ∈ regsTo x ↔ r ≤ x := by
  simp [regsTo]

theorem State.sameExcept_setV_blockLoaded (x : Reg) : State.SameExcept (regsTo x) s (s.setV (s.blockLoaded x)) :=
  s.sameExcept_setV _ fun r hr =>
    (s.blockLoaded_getElem x r).trans (if_neg fun hle => hr (reg_mem_regsTo.2 hle))

/-! ## The statements -/

/-- Settles O53: the address field, zero-extended, is written to the index. -/
theorem setIndexTakesTheAddress : Obligations.SetIndexTakesTheAddress := fun nnn =>
  ⟨Instr.encodedAs_of_addrForm 0xA#4 rfl rfl,
    fun s => ⟨_, exec_ldI s nnn, addrWord_toNat nnn, s.sameExcept_setI _⟩⟩

/-- Settles O54: one sum modulo 65536 unless the error is met; a sum up to 0xFFFF is its own remainder. -/
theorem addToIndexTakesTheSum : Obligations.AddToIndexTakesTheSum := by
  refine fun x => ⟨Instr.encodedAs_of_digitNn 0xF#4 0x1E#8 rfl rfl, fun s h => ?_, fun s _ hm => ?_, fun s h hm => ?_⟩
  · obtain ⟨t, ht, hi, hframe⟩ := exec_addI_index (fun herr => absurd herr.1 (Nat.not_lt.2 h))
    exact ⟨t, ht, hi.trans (Nat.mod_eq_of_lt (Nat.lt_succ_of_le h)), hframe⟩
  · exact exec_addI_index fun herr => by simp [hm] at herr
  · exact ⟨_, exec_addI_of_overflow h hm, rfl, s.sameExcept_raise _⟩

/-- Settles O55: under the limit on FONT_BASE the glyph's address fits the index, whatever V[x] is. -/
theorem glyphIndexIsNotClamped : Obligations.GlyphIndexIsNotClamped := fun x =>
  ⟨Instr.encodedAs_of_digitNn 0xF#4 0x29#8 rfl rfl,
    fun s hwf => ⟨_, exec_ldF s x, glyphAddr_toNat s.cfg (s.reg x) hwf, s.sameExcept_setI _⟩⟩

/-- Settles O56, by whether the three addresses lie in memory: the digits are read back, or the shared check raises. -/
theorem bcdStoresTheThreeDigits : Obligations.BcdStoresTheThreeDigits := by
  refine fun x => ⟨Instr.encodedAs_of_digitNn 0xF#4 0x33#8 rfl rfl, fun s h => ?_, fun s h => ?_⟩
  · obtain ⟨hundreds, tens, units⟩ := s.readByte_writeBytes_bcdDigits s.i.toNat (s.reg x)
    exact ⟨_, exec_ldB_of_fits h x, hundreds, tens, units,
      s.sameExcept_writeBytes s.i.toNat (bcdDigits (s.reg x))⟩
  · exact exec_of_checked_past rfl (by decide) h

/-- Settles O57, by whether the block lies in memory and, where it does, by the quirk, which only
decides where I is left. -/
theorem blockStoreCopiesTheRegisters : Obligations.BlockStoreCopiesTheRegisters := by
  refine fun x => ⟨Instr.encodedAs_of_digitNn 0xF#4 0x55#8 rfl rfl, fun s h hq => ?_, fun s h hq => ?_, fun s h => ?_⟩
  · have hstays := State.setI_self (s := s.writeBytes s.i.toNat (s.blockBytes x))
      ((State.indexAfterStore_of_stays hq x).trans (s.writeBytes_i _ _).symm)
    exact ⟨_, (exec_storeRegs_of_fits h).trans (congrArg Host.Outcome.next hstays),
      fun k hk => s.readByte_writeBytes_blockBytes _ hk, s.sameExcept_writeBytes_blockBytes _ x⟩
  · exact ⟨_, exec_storeRegs_of_fits h, fun k hk => s.readByte_writeBytes_blockBytes _ hk,
      State.indexAfterStore_toNat h hq,
      ((s.sameExcept_writeBytes_blockBytes _ x).mono fun _ => List.mem_cons_of_mem _).trans
        ((State.sameExcept_setI _ _).mono (by simp))⟩
  · exact exec_of_checked_past rfl (Nat.succ_ne_zero _) h

/-- Settles O58, by whether the block lies in memory: the registers up to x are the bytes, or the
shared check raises. -/
theorem blockLoadCopiesTheMemory : Obligations.BlockLoadCopiesTheMemory := by
  refine fun x => ⟨Instr.encodedAs_of_digitNn 0xF#4 0x65#8 rfl rfl, fun s h => ?_, fun s h => ?_⟩
  · exact ⟨_, exec_loadRegs_of_fits h, fun k hk => (s.blockLoaded_getElem x k).trans (if_pos hk),
      s.sameExcept_setV_blockLoaded x⟩
  · exact exec_of_checked_past rfl (Nat.succ_ne_zero _) h

end Sys2Proof.Machine
end

section
/-! The configuration (60_exceptions.md R155): an instruction, a request of the host, a cycle and so every move leave it
as `create` set it. -/

namespace Sys2Proof.Machine

variable {s t : State}

/-! ## The shared operations that branch -/

/-- The error of a check leaves the configuration, so only the effect has to be looked at. -/
theorem State.checked_cfg {a n : Nat} {f : State → State} (hf : (f s).cfg = s.cfg) : (s.checked a n f).cfg = s.cfg := by
  obtain ⟨-, heffect⟩ | ⟨-, -, hraise⟩ := s.checked_cases a n f
  · rw [heffect, hf]
  · rw [hraise, State.raise_cfg]

@[simp] theorem State.keySkip_cfg (s : State) (x : Reg) (cond : Key → Bool) : (s.keySkip x cond).cfg = s.cfg := by
  unfold State.keySkip
  split
  · exact s.raise_cfg _
  · exact s.skipIf_cfg _

@[simp] theorem State.afterCycle_cfg (s : State) (n : Nat) : (s.afterCycle n).cfg = s.cfg :=
  (s.sameExcept_afterCycle n).cfg (by simp)

@[simp] theorem State.resolveWait_cfg (s : State) (x : Reg) : (s.resolveWait x).cfg = s.cfg := by
  unfold State.resolveWait
  split <;> rfl

@[simp] theorem State.beginStep_cfg (s : State) (ipf : BitVec 32) (input : Input) :
    (s.beginStep ipf input).cfg = s.cfg := by
  unfold State.beginStep
  dsimp only
  split
  · exact State.resolveWait_cfg _ _
  · rfl

/-! ## Instructions -/

/-- Every instruction has a next state, an error included, and its configuration is the old one. -/
theorem exec_next_cfg (i : Instr) (s : State) : ∃ t, exec i s = .next t ∧ t.cfg = s.cfg :=
  match i with
  | .ret =>
    match hs : s.stack with
    | [] => ⟨_, exec_ret_of_stack_eq_nil hs, rfl⟩
    | _ :: _ => ⟨_, exec_ret_of_stack_eq_cons hs, rfl⟩
  | .call nnn =>
    (Nat.lt_or_ge s.stack.length s.cfg.maxStackDepth).elim
      (fun hroom => ⟨_, exec_call_of_room hroom nnn, rfl⟩) (fun hfull => ⟨_, exec_call_of_full hfull nnn, rfl⟩)
  | .addI x =>
    if h : 0xFFFF < s.indexSum x ∧ s.cfg.indexOverflow = .fault then ⟨_, exec_addI_of_overflow h.1 h.2, rfl⟩
    else ⟨_, exec_addI_of_no_error h, rfl⟩
  | .seImm _ _ | .sneImm _ _ | .seReg _ _ _ | .sneReg _ _ _ => ⟨_, rfl, s.skipIf_cfg _⟩
  | .skp x | .sknp x => ⟨_, rfl, s.keySkip_cfg x _⟩
  | .drw _ _ _ | .loadRegs _ => ⟨_, rfl, State.checked_cfg rfl⟩
  | .ldB _ | .storeRegs _ => ⟨_, rfl, State.checked_cfg (s.writeBytes_cfg _ _)⟩
  | .cls | .nop0 _ | .jp _ | .jpV0 _ | .ldImm _ _ | .addImm _ _ | .ldReg _ _ | .orReg _ _ | .andReg _ _
  | .xorReg _ _ | .addReg _ _ | .subReg _ _ | .shr _ _ | .subn _ _ | .shl _ _ | .nop8 _ _ _ | .ldI _
  | .rnd _ _ | .nopE _ _ | .ldVxDt _ | .ldVxK _ | .ldDtVx _ | .ldStVx _ | .ldF _ | .nopF _ _ => ⟨_, rfl, rfl⟩

theorem exec_cfg {i : Instr} (h : exec i s = .next t) : t.cfg = s.cfg := by
  obtain ⟨u, hu, hcfg⟩ := exec_next_cfg i s
  obtain rfl : u = t := Host.Outcome.next.inj (hu.symm.trans h)
  exact hcfg

/-! ## Moves -/

theorem State.loadProgram_cfg {bytes : List Byte} (h : s.loadProgram bytes = .next t) : t.cfg = s.cfg := by
  unfold State.loadProgram at h
  split at h
  · cases h
  · split at h
    · exact Host.Outcome.next.inj h ▸ rfl
    · exact Host.Outcome.next.inj h ▸ s.writeBytes_cfg _ _

theorem State.accept_cfg {r : Request} (h : s.accept r = .next t) : t.cfg = s.cfg := by
  cases r with
  | loadProgram bytes => exact State.loadProgram_cfg h
  | clearDirty => exact Host.Outcome.next.inj h ▸ rfl
  | step ipf input =>
    unfold State.accept at h
    dsimp only at h
    split at h
    · cases h
    · exact Host.Outcome.next.inj h ▸ s.beginStep_cfg ipf input

theorem State.runCycle_cfg {n : Nat} (h : s.runCycle n = .next t) : t.cfg = s.cfg := by
  obtain ⟨-, rfl⟩ | ⟨-, u, hu, rfl⟩ := runCycle_cases h
  · exact State.afterCycle_cfg _ n
  · rw [State.afterCycle_cfg, State.advance_cfg, exec_cfg hu, State.setDidJump_cfg]

theorem step_cfg (h : step s = .next t) : t.cfg = s.cfg := by
  obtain ⟨-, -, rfl⟩ | ⟨-, _, _, -, hrequest⟩ | ⟨_, -, hcycle⟩ | ⟨-, -, rfl⟩ := step_cases h
  · rfl
  · exact (State.accept_cfg hrequest).trans (s.setHost_cfg _)
  · exact State.runCycle_cfg hcycle
  · rfl

/-! ## The statement -/

/-- Settles O9: each kind of move and each instruction leaves the configuration, which `create` takes as it is given. -/
theorem configurationNeverChanges : Obligations.ConfigurationNeverChanges :=
  ⟨fun _ _ => step_cfg, fun _ _ _ => exec_cfg, fun _ => rfl⟩

end Sys2Proof.Machine
end

section
/-! The round trip from instructions to words (30_encoding.md R55 to R64), and sample words. -/

namespace Sys2Proof

/-- Settles O3: well-formedness is what keeps the four NOP rows apart from the rows of their digit. -/
theorem decodeEncodeIsIdentity : Obligations.DecodeEncodeIsIdentity := fun _ => decode_encode

/-- Settles O1: the decoder evaluated on each word. -/
theorem sampleWordsDecode : Obligations.SampleWordsDecode := by
  unfold Obligations.SampleWordsDecode
  decide

end Sys2Proof
end

section
/-! What an instruction can do, said once for all 38 (10_state.md R15; 60_exceptions.md R132 to R135): it records an
error for its cause and does nothing else, or it completes and writes only what is listed for it. The statements about
every instruction follow, and so does the pc after each (40_engine_cycle.md R75). -/

namespace Sys2Proof.Machine

/-- The error an instruction raises in a state, with the one cause of its kind (R132). -/
inductive Raises (s : State) : Instr → Fault → Prop
  | ret (h : s.stack = []) : Raises s .ret .stackUnderflow
  | call (nnn : Addr) (h : s.cfg.maxStackDepth ≤ s.stack.length) : Raises s (.call nnn) .stackOverflow
  | drw (x y : Reg) {n : Nibble} (hn : n.toNat ≠ 0) (h : 0x1000 < s.i.toNat + n.toNat) :
      Raises s (.drw x y n) (.memOutOfBounds (max s.i.toNat 0x1000))
  | ldB (x : Reg) (h : 0x1000 < s.i.toNat + 3) : Raises s (.ldB x) (.memOutOfBounds (max s.i.toNat 0x1000))
  | storeRegs {x : Reg} (h : 0x1000 < s.i.toNat + blockLen x) :
      Raises s (.storeRegs x) (.memOutOfBounds (max s.i.toNat 0x1000))
  | loadRegs {x : Reg} (h : 0x1000 < s.i.toNat + blockLen x) :
      Raises s (.loadRegs x) (.memOutOfBounds (max s.i.toNat 0x1000))
  | skp {x : Reg} (h : 15 < (s.reg x).toNat) : Raises s (.skp x) (.keyOutOfRange (s.reg x).toNat)
  | sknp {x : Reg} (h : 15 < (s.reg x).toNat) : Raises s (.sknp x) (.keyOutOfRange (s.reg x).toNat)
  | addI {x : Reg} (h : 0xFFFF < s.indexSum x) (hm : s.cfg.indexOverflow = .fault) :
      Raises s (.addI x) (.indexOverflow (s.indexSum x))

/-- The two ways an instruction ends. The frame is through reads of single bytes, so that the canonical form of memory
is said beside it. -/
inductive Executes (s : State) (i : Instr) : State → Prop
  | raises {e : Fault} (cause : Raises s i e) : Executes s i (s.raise e)
  | completes {t : State} (frame : State.SameExcept (writesOf s i) s t) (faulted : t.faulted = s.faulted)
      (memWf : s.memWf → t.memWf) : Executes s i t

variable {s t : State} {i : Instr}

/-! ## The instructions that can raise -/

/-- An instruction that checks its addresses first raises their error or completes its effect (R38). -/
theorem Executes.of_checked {a n : Nat} {f : State → State}
    (hpast : n ≠ 0 → 0x1000 < a + n → Raises s i (.memOutOfBounds (max a 0x1000)))
    (hfits : n = 0 ∨ a + n ≤ 0x1000 → Executes s i (f s)) : Executes s i (s.checked a n f) := by
  obtain ⟨h, he⟩ | ⟨hn, h, he⟩ := s.checked_cases a n f
  · exact he ▸ hfits h
  · exact he ▸ .raises (hpast hn h)

/-- A key skip raises for a value that names no key, and otherwise writes the pc alone (R119, R120). -/
theorem Executes.of_keySkip {x : Reg} {cond : Key → Bool} (hw : .pc ∈ writesOf s i)
    (hraises : 15 < (s.reg x).toNat → Raises s i (.keyOutOfRange (s.reg x).toNat)) :
    Executes s i (s.keySkip x cond) := by
  rcases hk : keyOf (s.reg x) with - | k
  · have h := (keyOf_eq_none_iff _).1 hk
    exact s.keySkip_of_no_key h cond ▸ .raises (hraises h)
  · rw [State.keySkip_of_key ((keyOf_eq_some_iff _ k).1 hk)]
    exact .completes ((s.sameExcept_skipIf _).mono (by simpa using hw)) (s.skipIf_faulted _)
      (by simp [State.memWf])

/-! ## The frames of a draw and of a block store -/

theorem State.sameExcept_setFb_setReg_setDirty (s : State) (f : Framebuffer) (r : Reg) (a : Byte) (b : Bool) :
    State.SameExcept ([.reg r, .dirty] ++ allRows) s (((s.setFb f).setReg r a).setDirty b) :=
  ((s.sameExcept_setFb f).mono (by simp_all)).trans
    (((s.setFb f).sameExcept_setReg_setDirty r a b).mono fun _ => List.mem_append_left _)

/-- The index is written only under STORE_INCREMENTS_I (R28, R129). -/
theorem State.sameExcept_storeRegs (s : State) (x : Reg) :
    State.SameExcept (writesOf s (.storeRegs x)) s
      ((s.writeBytes s.i.toNat (s.blockBytes x)).setI (s.indexAfterStore x)) := by
  have hblock := s.sameExcept_writeBytes_blockBytes s.i.toNat x
  cases hq : s.cfg.storeIncrementsI
  · rw [State.setI_self ((State.indexAfterStore_of_stays hq x).trans (s.writeBytes_i _ _).symm)]
    exact hblock.mono fun p hp => by simp [writesOf, hp]
  · exact (hblock.mono fun p hp => by simp [writesOf, hp]).trans
      ((State.sameExcept_setI _ _).mono (by simp [writesOf, hq]))

/-! ## Every instruction -/

theorem exec_executes (i : Instr) (s : State) : ∃ t, exec i s = .next t ∧ Executes s i t :=
  match i with
  | .ret =>
    match hs : s.stack with
    | [] => ⟨_, exec_ret_of_stack_eq_nil hs, .raises (.ret hs)⟩
    | top :: rest => ⟨_, exec_ret_of_stack_eq_cons hs,
        .completes ((s.sameExcept_setStack_setPc rest top).mono (by simp [writesOf])) rfl id⟩
  | .call nnn =>
    (Nat.lt_or_ge s.stack.length s.cfg.maxStackDepth).elim
      (fun hroom => ⟨_, exec_call_of_room hroom nnn,
        .completes ((s.sameExcept_setStack_jump _ _).mono (by simp [writesOf])) rfl id⟩)
      (fun hfull => ⟨_, exec_call_of_full hfull nnn, .raises (.call nnn hfull)⟩)
  | .addI x =>
    if h : 0xFFFF < s.indexSum x ∧ s.cfg.indexOverflow = .fault then
      ⟨_, exec_addI_of_overflow h.1 h.2, .raises (.addI h.1 h.2)⟩
    else ⟨_, exec_addI_of_no_error h, .completes ((s.sameExcept_setI _).mono (by simp [writesOf])) rfl id⟩
  | .drw x y n => ⟨_, rfl, .of_checked (.drw x y) fun _ =>
      .completes ((s.sameExcept_setFb_setReg_setDirty _ _ _ _).mono (by simp +contextual [writesOf])) rfl id⟩
  | .ldB x => ⟨_, rfl, .of_checked (fun _ => .ldB x) fun h =>
      .completes ((s.sameExcept_writeBytes _ _).mono fun _ => List.mem_cons_of_mem _) (s.writeBytes_faulted _ _)
        fun hwf => State.writeBytes_memWf hwf (h.resolve_left (by decide))⟩
  | .storeRegs x => ⟨_, rfl, .of_checked (fun _ => .storeRegs) fun h =>
      .completes (s.sameExcept_storeRegs x) (s.writeBytes_faulted _ _)
        fun hwf => State.writeBytes_memWf hwf
          (s.blockBytes_length x ▸ h.resolve_left (Nat.succ_ne_zero _))⟩
  | .loadRegs x => ⟨_, rfl, .of_checked (fun _ => .loadRegs) fun _ =>
      .completes ((s.sameExcept_setV_blockLoaded x).mono fun _ => List.mem_cons_of_mem _) rfl id⟩
  | .skp _ => ⟨_, rfl, .of_keySkip (by simp [writesOf]) .skp⟩
  | .sknp _ => ⟨_, rfl, .of_keySkip (by simp [writesOf]) .sknp⟩
  | .seImm _ _ | .sneImm _ _ | .seReg _ _ _ | .sneReg _ _ _ =>
    ⟨_, rfl, .completes (s.sameExcept_skipIf _) (s.skipIf_faulted _) (by simp [State.memWf])⟩
  | .jp _ | .jpV0 _ => ⟨_, rfl, .completes (s.sameExcept_jump _) rfl id⟩
  | .cls => ⟨_, rfl, .completes (s.sameExcept_setFb_setDirty _ _) rfl id⟩
  | .ldImm x _ | .addImm x _ | .ldVxDt x => ⟨_, rfl, .completes (s.sameExcept_setReg x _) rfl id⟩
  | .ldReg x _ | .orReg x _ | .andReg x _ | .xorReg x _ | .addReg x _ | .subReg x _ | .shr x _ | .subn x _
  | .shl x _ => ⟨_, rfl, .completes (s.sameExcept_setRegFlag x _ _) rfl id⟩
  | .rnd x _ => ⟨_, rfl, .completes (s.sameExcept_setReg_setDraws x _ _) rfl id⟩
  | .ldVxK _ => ⟨_, rfl, .completes (s.sameExcept_setWaiting _) rfl id⟩
  | .ldDtVx _ => ⟨_, rfl, .completes (s.sameExcept_setDt _) rfl id⟩
  | .ldStVx _ => ⟨_, rfl, .completes (s.sameExcept_setSt _) rfl id⟩
  | .ldI _ | .ldF _ => ⟨_, rfl, .completes (s.sameExcept_setI _) rfl id⟩
  | .nop0 _ | .nop8 _ _ _ | .nopE _ _ | .nopF _ _ => ⟨_, rfl, .completes (.refl _ s) rfl id⟩

theorem executes_of_exec (h : exec i s = .next t) : Executes s i t := by
  obtain ⟨u, hu, hx⟩ := exec_executes i s
  exact Host.Outcome.next.inj (hu.symm.trans h) ▸ hx

theorem Raises.faulted_mem_writesOf {e : Fault} (cause : Raises s i e) : .faulted ∈ writesOf s i := by
  cases cause <;> simp [writesOf]

theorem Executes.sameExcept (h : Executes s i t) : State.SameExcept (writesOf s i) s t := by
  cases h with
  | raises cause => exact (s.sameExcept_raise _).mono (by simpa using cause.faulted_mem_writesOf)
  | completes frame => exact frame

theorem sameExcept_of_exec (h : exec i s = .next t) : State.SameExcept (writesOf s i) s t :=
  (executes_of_exec h).sameExcept

theorem memWf_of_exec (h : exec i s = .next t) (hwf : s.memWf) : t.memWf := by
  cases executes_of_exec h with
  | raises => exact hwf
  | completes _ _ memWf => exact memWf hwf

/-- An error recorded by an instruction has its cause, and the instruction has done nothing else (R82). -/
theorem raises_of_exec {e : Fault} (hf : s.faulted = none) (h : exec i s = .next t) (he : t.faulted = some e) :
    Raises s i e ∧ t = s.raise e := by
  cases executes_of_exec h with
  | raises cause =>
    obtain rfl := Option.some.inj he
    exact ⟨cause, rfl⟩
  | completes _ faulted => simp [hf, he] at faulted

/-! ## The pc after an instruction (R75) -/

/-- An instruction that writes no control state is followed by the advance by 2. -/
theorem State.SameExcept.advance_pc {w : List Part} (h : State.SameExcept w s t) (hf : t.faulted = none)
    (hw : s.waiting = none) (hj : s.didJump = false)
    (hctl : .pc ∉ w ∧ .didJump ∉ w ∧ .waiting ∉ w) : t.advance.pc = s.pc + 2 := by
  obtain ⟨hpc, hdj, hwt⟩ := hctl
  rw [State.advance_pc, if_pos ⟨hf, (h.waiting hwt).trans hw, (h.didJump hdj).trans hj⟩, h.pc hpc]

theorem State.advance_skipIf_pc (hf : s.faulted = none) (hw : s.waiting = none) (hj : s.didJump = false) (c : Bool) :
    (s.skipIf c).advance.pc = skipTarget s.pc c := by
  cases c
  · simp [skipTarget, hf, hw, hj]
  · simp [skipTarget, hf, hw, hj, BitVec.add_assoc]

/-- A key skip that raises no error is the skip on a key. -/
theorem State.advance_keySkip_pc {x : Reg} {cond : Key → Bool} (hf : s.faulted = none) (hw : s.waiting = none)
    (hj : s.didJump = false) (ht : (s.keySkip x cond).faulted = none) :
    ∃ k, keyOf (s.reg x) = some k ∧ (s.keySkip x cond).advance.pc = skipTarget s.pc (cond k) := by
  rcases hk : keyOf (s.reg x) with - | k
  · simp [s.keySkip_of_no_key ((keyOf_eq_none_iff _).1 hk)] at ht
  · exact ⟨k, rfl, by
      rw [State.keySkip_of_key ((keyOf_eq_some_iff _ k).1 hk), State.advance_skipIf_pc hf hw hj]⟩

theorem advance_pc_of_exec (hf : s.faulted = none) (hw : s.waiting = none) (hj : s.didJump = false)
    (h : exec i s = .next t) (ht : t.faulted = none) : t.advance.pc = pcAfter s i := by
  cases i
  case jp | jpV0 =>
    obtain rfl := Host.Outcome.next.inj h
    simp [pcAfter]
  case call nnn =>
    obtain hroom | hfull := Nat.lt_or_ge s.stack.length s.cfg.maxStackDepth
    · obtain rfl := Host.Outcome.next.inj ((exec_call_of_room hroom nnn).symm.trans h)
      simp [pcAfter]
    · obtain rfl := Host.Outcome.next.inj ((exec_call_of_full hfull nnn).symm.trans h)
      simp at ht
  case ret =>
    rcases hs : s.stack with - | ⟨top, rest⟩
    · obtain rfl := Host.Outcome.next.inj ((exec_ret_of_stack_eq_nil hs).symm.trans h)
      simp at ht
    · obtain rfl := Host.Outcome.next.inj ((exec_ret_of_stack_eq_cons hs).symm.trans h)
      simp [pcAfter, hs, hf, hw, hj]
  case seImm | sneImm | seReg | sneReg =>
    obtain rfl := Host.Outcome.next.inj h
    exact State.advance_skipIf_pc hf hw hj _
  case skp x | sknp x =>
    obtain rfl := Host.Outcome.next.inj h
    obtain ⟨k, hk, hpc⟩ := State.advance_keySkip_pc hf hw hj ht
    exact hpc.trans (by simp [pcAfter, hk])
  case ldVxK =>
    obtain rfl := Host.Outcome.next.inj h
    simp [pcAfter]
  all_goals
    exact (sameExcept_of_exec h).advance_pc ht hw hj (by simp [writesOf, allRows, bytesFrom, regsTo])

/-! ## The statements -/

/-- Settles O25: errors included, for an error is taken in a next state. -/
theorem everyInstructionHasANextState : Obligations.EveryInstructionHasANextState := fun i s => by
  obtain ⟨t, ht, -⟩ := exec_executes i s
  exact ⟨t, ht⟩

/-- Settles O26: the frame of a completed instruction, or of an error, which every instruction that can raise lists. -/
theorem instructionsWriteOnlyWhatIsListed : Obligations.InstructionsWriteOnlyWhatIsListed :=
  fun _ _ _ => sameExcept_of_exec

/-- Settles O27: an instruction either raises, and then does nothing else, or leaves the error flag alone. -/
theorem raisingWritesNothingElse : Obligations.RaisingWritesNothingElse :=
  fun _ _ _ _ hf h he => (raises_of_exec hf h he).2

/-- Settles O28, by the causes of errors. -/
theorem eachErrorHasItsOneCause : Obligations.EachErrorHasItsOneCause := by
  intro i s t e hf h he
  cases (raises_of_exec hf h he).1 with
  | ret hs => exact ⟨rfl, hs⟩
  | call nnn hfull => exact ⟨⟨nnn, rfl⟩, hfull⟩
  | drw x y hn hpast => exact ⟨rfl, .inl ⟨x, y, _, rfl, fun h0 => hn (congrArg BitVec.toNat h0), hpast⟩⟩
  | ldB x hpast => exact ⟨rfl, .inr (.inl ⟨x, rfl, hpast⟩)⟩
  | storeRegs hpast => exact ⟨rfl, .inr (.inr ⟨_, .inl rfl, hpast⟩)⟩
  | loadRegs hpast => exact ⟨rfl, .inr (.inr ⟨_, .inr rfl, hpast⟩)⟩
  | skp hkey => exact ⟨_, .inl rfl, rfl, hkey⟩
  | sknp hkey => exact ⟨_, .inr rfl, rfl, hkey⟩
  | addI hsum hm => exact ⟨_, rfl, rfl, hsum, hm⟩

/-- Settles O15: an instruction that raises leaves the pc where it was, and the advance does not move it. -/
theorem pcAfterEachInstruction : Obligations.PcAfterEachInstruction := by
  refine fun i s t hf hw hj h => ⟨advance_pc_of_exec hf hw hj h, fun ht => ?_⟩
  obtain ⟨e, he⟩ := Option.ne_none_iff_exists'.1 ht
  obtain ⟨-, rfl⟩ := raises_of_exec hf h he
  simp

end Sys2Proof.Machine
end

section
/-! Four instructions by themselves: the key wait (44_keys_timers.md R121), a draw out of range (43_display.md R113), the
fetch of stored bytes (20_memory.md R47) and the unrecognized words (30_encoding.md R62). -/

namespace Sys2Proof.Machine

/-- Settles O51: the wait is one write, and a waiting core does not advance. -/
theorem waitForKeySuspends : Obligations.WaitForKeySuspends := fun x =>
  ⟨Instr.encodedAs_of_digitNn 0xF#4 0x0A#8 rfl rfl, fun s =>
    ⟨_, rfl, rfl, by simp, s.sameExcept_setWaiting _⟩⟩

/-- Settles O47: the shared check raises before anything is drawn. -/
theorem drawOutOfRangeIsAnError : Obligations.DrawOutOfRangeIsAnError := fun _ _ _ _ hn h =>
  exec_of_checked_past rfl (fun h0 => hn (BitVec.eq_of_toNat_eq h0)) h

/-- Settles O59: the two registers are read back as the bytes of the word, whatever the store does to the index. -/
theorem storedBytesAreFetchedAtOnce : Obligations.StoredBytesAreFetchedAtOnce := by
  intro x k j s t p h hfits hkj hjx hj hp
  obtain rfl := Host.Outcome.next.inj ((exec_storeRegs_of_fits hfits).symm.trans h)
  have hread (r : Reg) (hr : r ≤ x) :
      (((s.writeBytes s.i.toNat (s.blockBytes x)).setI (s.indexAfterStore x)).setPc p).readByte (s.i.toNat + r.val)
        = s.reg r :=
    (State.readByte_congr rfl rfl _).trans (s.readByte_writeBytes_blockBytes _ hr)
  rw [State.fetchWord_toNat, State.setPc_pc, hp, Nat.add_assoc, ← hj, hread k (hkj.le.trans hjx), hread j hjx]

/-- Settles O29: the words are those that well-formedness admits for the NOP rows, and the one meaning of these rows is
the state as it was. -/
theorem unrecognizedWordsDoNothing : Obligations.UnrecognizedWordsDoNothing := by
  refine ⟨fun nnn h0 h1 => ⟨?_, fun _ => rfl⟩, fun x y n hn => ⟨?_, fun _ => rfl⟩,
    fun x nn hnn => ⟨?_, fun _ => rfl⟩, fun x nn hnn => ⟨?_, fun _ => rfl⟩, fun s hf hw hj => by simp [hf, hw, hj]⟩
  · have hwf : (Instr.nop0 nnn).wf = true := by simp [Instr.wf, unrecognized0, ← BitVec.toNat_inj, h0, h1]
    simpa using Instr.encodedAs_of_addrForm 0x0#4 hwf rfl
  · have hwf : (Instr.nop8 x y n).wf = true := by
      simpa [Instr.wf, unrecognized8, ← BitVec.toNat_inj, or_assoc] using hn
    exact Instr.encodedAs_of_nibbles 0x8#4 hwf rfl
  · have hwf : (Instr.nopE x nn).wf = true := by simpa [Instr.wf, unrecognizedE, ← BitVec.toNat_inj] using hnn
    exact Instr.encodedAs_of_byteForm 0xE#4 hwf rfl
  · have hwf : (Instr.nopF x nn).wf = true := by
      simpa [Instr.wf, unrecognizedF, ← BitVec.toNat_inj, and_assoc] using hnn
    exact Instr.encodedAs_of_byteForm 0xF#4 hwf rfl

end Sys2Proof.Machine
end

section
/-! The state at creation (10_state.md R33; 70_reset_and_hazards.md R153). -/

namespace Sys2Proof.Machine

/-! ## The contents of memory at creation -/

theorem resetByte_of_font (cfg : Config) (k : Fin 80) : resetByte cfg (cfg.fontBase.toNat + k) = cfg.fontData[k] := by
  unfold resetByte
  rw [dif_pos (by omega)]
  simp only [Nat.add_sub_cancel_left]
  rfl

theorem resetByte_of_no_font {cfg : Config} {a : Nat}
    (h : a < cfg.fontBase.toNat ∨ cfg.fontBase.toNat + 80 ≤ a) : resetByte cfg a = 0 :=
  dif_neg (by omega)

/-! ## The statements -/

/-- Settles O5: memory holds nothing of its own at creation, so every byte is its reset content. -/
theorem resetLeavesTheStateOfCreation : Obligations.ResetLeavesTheStateOfCreation :=
  ⟨fun cfg => ⟨fun _ => Vector.getElem_replicate _, rfl, rfl, rfl, rfl, rfl, fun _ => Vector.getElem_replicate _, rfl,
    rfl, rfl, rfl, rfl, resetByte_of_font cfg, fun _ => resetByte_of_no_font⟩, rfl⟩

theorem State.create_inv {cfg : Config} (h : cfg.wf = true) : (State.create cfg).Inv :=
  ⟨h, State.create_memWf cfg, Nat.zero_le _, fun _ hr => (List.not_mem_nil hr).elim, by simp [State.create],
    fun hw => (hw rfl).elim, fun hf => (hf rfl).elim, rfl⟩

/-- Settles O6: the default configuration keeps the limits. -/
theorem creationMeetsTheInvariant : Obligations.CreationMeetsTheInvariant :=
  ⟨fun _ => State.create_inv, State.create_inv rfl⟩

end Sys2Proof.Machine
end

section
/-! The host's calls and the end of a `step` call (40_engine_cycle.md R71, R76 to R84; 60_exceptions.md R147, R152;
70_reset_and_hazards.md R157): what each does in each of its cases, and the statements. -/

namespace Sys2Proof.Machine

variable {s t : State}

/-! ## The end of a call -/

theorem State.sameExcept_tick (s : State) : State.SameExcept [.dt, .st] s s.tick :=
  ((s.sameExcept_setDt _).mono (by simp)).trans ((State.sameExcept_setSt _ _).mono (by simp))

theorem State.sameExcept_endCall (s : State) (r : CallResult) : State.SameExcept [.host] s (s.endCall r) :=
  s.sameExcept_setHost _

theorem State.sameExcept_finishStep (s : State) : State.SameExcept [.dt, .st, .host] s s.finishStep :=
  (s.sameExcept_tick.mono (by simp)).trans ((s.tick.sameExcept_endCall .ok).mono (by simp))

theorem State.finishStep_dt_toNat (s : State) : s.finishStep.dt.toNat = s.dt.toNat - 1 := tickByte_toNat s.dt

theorem State.finishStep_st_toNat (s : State) : s.finishStep.st.toNat = s.st.toNat - 1 := tickByte_toNat s.st

/-! ## The host's port -/

/-- The core with another count of instructions left in its call. -/
def State.setLeft (s : State) (left : Option Nat) : State := s.setHost { s.host with left := left }

/-- The core with the first request taken from the queue. -/
def State.dequeue (s : State) (rest : List Request) : State := s.setHost { s.host with requests := rest }

/-- The core with the snapshot of a `step` call latched. -/
def State.latch (s : State) (input : Input) : State := s.setHost { s.host with input := input, started := true }

/-! ## A `step` request (R71, R78) -/

section beginStep
variable {x : Reg} {ipf : BitVec 32} {input : Input} {rest : List Request}

theorem State.beginStep_of_ready (h : s.waiting = none) :
    s.beginStep ipf input = (s.latch input).setLeft (some ipf.toNat) := by
  simp [State.beginStep, State.latch, State.setLeft, h]

theorem State.beginStep_of_waiting (h : s.waiting = some x) :
    s.beginStep ipf input = ((s.latch input).resolveWait x).finishStep := by
  simp [State.beginStep, State.latch, h]

theorem State.resolveWait_of_no_release (h : s.host.input.released = none) : s.resolveWait x = s := by
  simp [State.resolveWait, h]

theorem State.resolveWait_of_release {k : Key} (h : s.host.input.released = some k) :
    s.resolveWait x = ((s.setReg x (BitVec.ofNat 8 k.val)).setWaiting none).setPc (s.pc + 2) := by
  simp [State.resolveWait, h]

theorem State.sameExcept_release (s : State) (x : Reg) (b : Byte) (w : Word) :
    State.SameExcept [.reg x, .waiting, .pc] s (((s.setReg x b).setWaiting none).setPc w) :=
  (((s.sameExcept_setReg x b).mono (by simp)).trans ((State.sameExcept_setWaiting _ none).mono (by simp))).trans
    ((State.sameExcept_setPc _ w).mono (by simp))

/-- A call that finds the core ready begins the instruction loop. -/
theorem step_of_call_ready (hl : s.host.left = none) (hf : s.faulted = none) (hw : s.waiting = none)
    (hr : s.host.requests = .step ipf input :: rest) :
    step s = .next (((s.dequeue rest).latch input).setLeft (some ipf.toNat)) :=
  (step_of_stepRequest hl hf hr).trans (congrArg Host.Outcome.next (State.beginStep_of_ready (s := s.setHost _) hw))

/-- A call that finds the core waiting only resolves the wait, and ends. -/
theorem step_of_call_waiting (hl : s.host.left = none) (hf : s.faulted = none) (hw : s.waiting = some x)
    (hr : s.host.requests = .step ipf input :: rest) :
    step s = .next (((s.dequeue rest).latch input).resolveWait x).finishStep :=
  (step_of_stepRequest hl hf hr).trans (congrArg Host.Outcome.next (State.beginStep_of_waiting (s := s.setHost _) hw))

end beginStep

/-! ## Several moves -/

theorem run_succ_of_next (h : step s = .next t) (k : Nat) :
    Host.Core.run core (k + 1) s = Host.Core.run core k t := by
  have hcore : core.step s = .next t := h
  simp only [Host.Core.run, hcore]

/-! ## A `load_program` request (R157) -/

section loadProgram
variable {bytes : List Byte}

theorem State.loadProgram_of_started (h : s.host.started = true) : s.loadProgram bytes = .refused .loadAfterStep :=
  if_pos h

theorem State.loadProgram_of_fits (h : s.host.started = false) (hl : bytes.length ≤ 3584) :
    s.loadProgram bytes = .next ((s.writeBytes 0x200 bytes).endCall .ok) := by
  simp [State.loadProgram, h, memSize, programBase, hl]

theorem State.loadProgram_of_too_long (h : s.host.started = false) (hl : 3584 < bytes.length) :
    s.loadProgram bytes = .next (s.endCall (.err (.programTooLarge bytes.length))) := by
  simp [State.loadProgram, h, memSize, programBase, hl]

end loadProgram

/-! ## The statements -/

/-- Settles O17: the end of a call is the tick and the return. -/
theorem tickEndsTheStepCall : Obligations.TickEndsTheStepCall := fun s hf h =>
  ⟨_, step_of_end hf h, s.finishStep_dt_toNat, s.finishStep_st_toNat, rfl, s.sameExcept_finishStep⟩

/-- Settles O18: without a release the wait resolves to the state as it was, and the call ends. -/
theorem keyWaitLastsWithoutARelease : Obligations.KeyWaitLastsWithoutARelease := by
  intro s x ipf input rest hl hf hw hr hrel
  have hstep := step_of_call_waiting hl hf hw hr
  rw [State.resolveWait_of_no_release (by exact hrel)] at hstep
  exact ⟨_, hstep, State.finishStep_dt_toNat _, State.finishStep_st_toNat _, rfl, rfl, rfl,
    ((s.sameExcept_setHost _).mono (by simp)).trans (State.sameExcept_finishStep _)⟩

/-- Settles O19: with a release the wait resolves to the key's number in the register and the advance held back, and the
call ends. -/
theorem keyReleaseEndsTheWait : Obligations.KeyReleaseEndsTheWait := by
  intro s x k ipf input rest hl hf hw hr hrel
  have hstep := step_of_call_waiting hl hf hw hr
  rw [State.resolveWait_of_release (k := k) (by exact hrel)] at hstep
  have hreg : ((s.setReg x (BitVec.ofNat 8 k.val)).reg x).toNat = k.val := by
    rw [State.reg_setReg_self, BitVec.toNat_ofNat]
    omega
  exact ⟨_, hstep, hreg, rfl, rfl, State.finishStep_dt_toNat _, State.finishStep_st_toNat _, rfl, rfl, rfl,
    (((s.sameExcept_setHost _).mono (by simp)).trans ((State.sameExcept_release _ x _ _).mono (by simp))).trans
      ((State.sameExcept_finishStep _).mono (by simp))⟩

/-- Settles O20: the first move begins a call with no instruction to run, and the second ends it. -/
theorem stepZeroOnlyTicks : Obligations.StepZeroOnlyTicks := by
  intro s input rest hl hf hw hr
  have hbegin := step_of_call_ready hl hf hw hr
  have hend := step_of_end (s := ((s.dequeue rest).latch input).setLeft (some 0)) hf (.inl rfl)
  exact ⟨_, (run_succ_of_next hbegin 1).trans (run_succ_of_next hend 0), State.finishStep_dt_toNat _,
    State.finishStep_st_toNat _, rfl, rfl,
    ((s.sameExcept_setHost _).mono (by simp)).trans (State.sameExcept_finishStep _)⟩

/-- Settles O21: the request finds the error and answers it. -/
theorem faultedStepCallReturnsTheSameError : Obligations.FaultedStepCallReturnsTheSameError := by
  intro s e ipf input rest hl hf hr
  rw [step_of_request hl hr]
  simp [State.accept, hf]

/-- Settles O24: the request is taken from the queue, and `dirty` is cleared. -/
theorem hostClearsDirtyAlone : Obligations.HostClearsDirtyAlone := fun s _ hl hr =>
  ⟨_, step_of_request hl hr, rfl, rfl,
    ((s.sameExcept_setHost _).mono (by simp)).trans ((State.sameExcept_setDirty _ false).mono (by simp))⟩

/-- Settles O23, by whether a call has been made and whether the program fits. -/
theorem loadProgramWritesTheProgram : Obligations.LoadProgramWritesTheProgram := by
  intro s bytes rest hl hr
  have hstep : step s = (s.dequeue rest).loadProgram bytes := step_of_request hl hr
  refine ⟨fun hs => ?_, fun hs hfits => ?_, fun hs hlong => ?_⟩
  · exact hstep.trans (State.loadProgram_of_started hs)
  · have hread (k : Nat) (hk : k < bytes.length) :
        (((s.dequeue rest).writeBytes 0x200 bytes).endCall .ok).readByte (0x200 + k) = bytes[k] :=
      (State.readByte_congr rfl rfl _).trans (State.readByte_writeBytes_add _ _ hk)
    refine ⟨_, hstep.trans (State.loadProgram_of_fits hs hfits), hread, by simp [State.dequeue], ?_⟩
    exact (((s.sameExcept_setHost _).mono (by simp)).trans ((State.sameExcept_writeBytes _ _ _).mono
      fun _ => List.mem_cons_of_mem _)).trans ((State.sameExcept_endCall _ _).mono (by simp))
  · exact ⟨_, hstep.trans (State.loadProgram_of_too_long hs hlong), rfl, s.sameExcept_setHost _⟩

end Sys2Proof.Machine
end

section
/-! One cycle as a move (40_engine_cycle.md R72, R73; 60_exceptions.md R133, R134): the instruction with its advance, or
the error that ends the call, and the three statements. -/

namespace Sys2Proof.Machine

variable {s t u : State} {n : Nat}

/-! ## What follows the instruction -/

theorem State.afterCycle_of_ok (h : s.faulted = none) : s.afterCycle n = s.setLeft (some n) := by
  simp [State.afterCycle, State.setLeft, h]

theorem State.afterCycle_of_error {e : Fault} (h : s.faulted = some e) : s.afterCycle n = s.endCall (.err e) := by
  simp [State.afterCycle, h]

/-- An error leaves nothing but itself, did_jump clear, and the end of the call. -/
theorem State.sameExcept_raise_endCall (s : State) (e : Fault) (r : CallResult) :
    State.SameExcept [.faulted, .didJump, .host] s (((s.setDidJump false).raise e).endCall r) :=
  (((s.sameExcept_setDidJump false).mono (by simp)).trans ((State.sameExcept_raise _ e).mono (by simp))).trans
    ((State.sameExcept_endCall _ r).mono (by simp))

/-! ## The move -/

theorem runCycle_of_exec (hp : s.pc.toNat ≤ 0xFFE)
    (hx : exec (decode s.fetchWord) (s.setDidJump false) = .next u) :
    s.runCycle n = .next (u.advance.afterCycle n) := by
  unfold State.runCycle
  rw [State.cycle_of_fetch hp, hx]
  rfl

theorem runCycle_of_past (hp : 0xFFE < s.pc.toNat) :
    s.runCycle n = .next (((s.setDidJump false).raise (.memOutOfBounds (max s.pc.toNat 0x1000))).endCall
      (.err (.memOutOfBounds (max s.pc.toNat 0x1000)))) := by
  unfold State.runCycle
  rw [State.cycle_of_past hp]
  exact congrArg Host.Outcome.next (State.afterCycle_of_error rfl)

/-- An instruction that raises ends the call as a fetch out of range does. -/
theorem runCycle_of_raise {e : Fault} (hf : s.faulted = none) (hp : s.pc.toNat ≤ 0xFFE)
    (hx : exec (decode s.fetchWord) (s.setDidJump false) = .next u) (he : u.faulted = some e) :
    s.runCycle n = .next (((s.setDidJump false).raise e).endCall (.err e)) := by
  obtain ⟨-, rfl⟩ := raises_of_exec (s := s.setDidJump false) hf hx he
  rw [runCycle_of_exec hp hx, State.advance_of_raises (by simp)]
  exact congrArg Host.Outcome.next (State.afterCycle_of_error rfl)

/-! ## The statements -/

/-- Settles O14: every instruction has a next state, and the cycle puts the advance and its own end after it. -/
theorem stepRunsTheDecodedInstruction : Obligations.StepRunsTheDecodedInstruction := by
  intro s n i hrun hp hdec
  obtain rfl : decode s.fetchWord = i := congrArg Prod.fst (Except.ok.inj hdec)
  have hstep (t : State) (hx : exec (decode s.fetchWord) (s.setDidJump false) = .next t) :
      step s = .next (t.advance.afterCycle n) := (step_of_running hrun).trans (runCycle_of_exec hp hx)
  constructor
  · obtain ⟨t, hx, -⟩ := exec_executes (decode s.fetchWord) (s.setDidJump false)
    rw [hstep t hx, hx]
  · intro t hx hf
    have hok := State.afterCycle_of_ok (n := n) ((State.advance_faulted t).trans hf)
    refine ⟨_, (hstep t hx).trans (congrArg Host.Outcome.next hok), ?_, ?_, rfl, ?_⟩
    · simp [State.setLeft]
    · simp [State.setLeft, hf]
    · exact (t.sameExcept_advance.mono (by simp)).trans ((State.sameExcept_setHost _ _).mono (by simp))

/-- Settles O16: the first address out of range is the pc's or, for pc 0xFFF, the one after it. -/
theorem fetchOutOfRangeIsAnError : Obligations.FetchOutOfRangeIsAnError := by
  intro s n hrun hp
  have hbad : (if s.pc.toNat = 0xFFF then 0x1000 else s.pc.toNat) = max s.pc.toNat 0x1000 := by
    split <;> omega
  rw [hbad]
  exact ⟨_, (step_of_running hrun).trans (runCycle_of_past hp), rfl, rfl, rfl, rfl, s.sameExcept_raise_endCall _ _⟩

/-- Settles O22: the error is all the instruction leaves, and the call ends on it. -/
theorem errorEndsTheCallWithoutATick : Obligations.ErrorEndsTheCallWithoutATick := by
  intro s u n e hrun hp hx he
  have ⟨_, hf, _⟩ := hrun
  exact ⟨_, (step_of_running hrun).trans (runCycle_of_raise hf hp hx he), rfl, rfl, rfl, s.sameExcept_raise_endCall _ _⟩

end Sys2Proof.Machine
end

section
/-! Every move of the core: what a request and a cycle can leave, said once each, and from that what all moves keep
(10_state.md R19, R24; 40_engine_cycle.md R81, R83; 70_reset_and_hazards.md R157) and the invariant. -/

namespace Sys2Proof.Machine

variable {s t u : State} {i : Instr}

/-! ## What a request and a cycle can leave -/

theorem State.resolveWait_cases (s : State) (x : Reg) :
    s.resolveWait x = s ∨ ∃ b, s.resolveWait x = ((s.setReg x b).setWaiting none).setPc (s.pc + 2) := by
  rcases hr : s.host.input.released with - | k
  · exact .inl (State.resolveWait_of_no_release hr)
  · exact .inr ⟨_, State.resolveWait_of_release hr⟩

/-- Every request that has a next state: a load carried out or found too long, `dirty` cleared, or a `step` call that
begins its loop, finds no release for a wait, or ends the wait. -/
theorem State.accept_cases {r : Request} (h : s.accept r = .next t) :
    (∃ bytes : List Byte, bytes.length ≤ 3584 ∧ t = (s.writeBytes 0x200 bytes).endCall .ok) ∨
    (∃ e, t = s.endCall (.err e)) ∨
    t = s.setDirty false ∨
    (s.faulted = none ∧ ∃ input ipf, t = (s.latch input).setLeft (some ipf)) ∨
    (∃ input, t = (s.latch input).finishStep) ∨
    (s.waiting ≠ none ∧ ∃ input x b,
      t = ((((s.latch input).setReg x b).setWaiting none).setPc (s.pc + 2)).finishStep) := by
  cases r with
  | loadProgram bytes =>
    rcases hs : s.host.started with - | -
    · rcases Nat.lt_or_ge 3584 bytes.length with hl | hl
      · exact .inr (.inl ⟨_, (Host.Outcome.next.inj ((State.loadProgram_of_too_long hs hl).symm.trans h)).symm⟩)
      · exact .inl ⟨bytes, hl, (Host.Outcome.next.inj ((State.loadProgram_of_fits hs hl).symm.trans h)).symm⟩
    · cases (State.loadProgram_of_started hs).symm.trans h
  | clearDirty => exact .inr (.inr (.inl (Host.Outcome.next.inj h).symm))
  | step ipf input =>
    rcases hf : s.faulted with - | e
    · have ht : s.beginStep ipf input = t := by simpa [State.accept, hf] using h
      rcases hw : s.waiting with - | x
      · exact .inr (.inr (.inr (.inl ⟨rfl, input, _, ht ▸ State.beginStep_of_ready hw⟩)))
      · rw [State.beginStep_of_waiting hw] at ht
        obtain hstays | ⟨b, hends⟩ := (s.latch input).resolveWait_cases x
        · exact .inr (.inr (.inr (.inr (.inl ⟨input, by rw [← ht, hstays]⟩))))
        · exact .inr (.inr (.inr (.inr (.inr ⟨by simp, input, x, b, by rw [← ht, hends]; rfl⟩))))
    · simp [State.accept, hf] at h

/-- Every cycle: an error and the end of the call, or a completed instruction with its advance. -/
theorem runCycle_ends {n : Nat} (hf : s.faulted = none) (h : s.runCycle n = .next t) :
    (∃ e, t = ((s.setDidJump false).raise e).endCall (.err e)) ∨
    (s.pc.toNat ≤ 0xFFE ∧ ∃ u, exec (decode s.fetchWord) (s.setDidJump false) = .next u ∧ u.faulted = none ∧
      t = u.advance.setLeft (some n)) := by
  obtain ⟨-, rfl⟩ | ⟨hp, u, hx, rfl⟩ := runCycle_cases h
  · exact .inl ⟨_, State.afterCycle_of_error rfl⟩
  · rcases hu : u.faulted with - | e
    · exact .inr ⟨hp, u, hx, hu, State.afterCycle_of_ok ((State.advance_faulted u).trans hu)⟩
    · exact .inl ⟨e, Host.Outcome.next.inj
        ((runCycle_of_exec hp hx).symm.trans (runCycle_of_raise (n := n) hf hp hx hu))⟩

/-! ## Which instructions write the framebuffer, the stack and the key wait -/

theorem row_mem_writesOf {r : Fin 32} (h : .row r ∈ writesOf s i) : i = .cls ∨ ∃ x y n, i = .drw x y n := by
  cases i <;> simp [writesOf, bytesFrom, regsTo] at h ⊢

theorem stack_mem_writesOf (h : .stack ∈ writesOf s i) : i = .ret ∨ ∃ nnn, i = .call nnn := by
  cases i <;> simp [writesOf, allRows, bytesFrom, regsTo] at h ⊢

theorem waiting_mem_writesOf (h : .waiting ∈ writesOf s i) : ∃ x, i = .ldVxK x := by
  cases i <;> simp [writesOf, allRows, bytesFrom, regsTo] at h ⊢

theorem host_not_mem_writesOf : .host ∉ writesOf s i := by
  cases i <;> simp [writesOf, allRows, bytesFrom, regsTo]

theorem exec_host (h : exec i s = .next t) : t.host = s.host :=
  (sameExcept_of_exec h).host host_not_mem_writesOf

theorem State.SameExcept.fb {w : List Part} (h : State.SameExcept w s t) (hw : ∀ r, .row r ∉ w) : t.fb = s.fb :=
  Vector.ext fun k hk => h.row ⟨k, hk⟩ (hw _)

theorem exec_of_fb_ne (h : exec i s = .next t) (hne : t.fb ≠ s.fb) : i = .cls ∨ ∃ x y n, i = .drw x y n := by
  by_contra hi
  exact hne ((sameExcept_of_exec h).fb fun _ hr => hi (row_mem_writesOf hr))

theorem exec_of_stack_ne (h : exec i s = .next t) (hne : t.stack ≠ s.stack) : i = .ret ∨ ∃ nnn, i = .call nnn := by
  by_contra hi
  exact hne ((sameExcept_of_exec h).stack fun hr => hi (stack_mem_writesOf hr))

/-! ## What no request changes -/

theorem State.accept_fb {r : Request} (h : s.accept r = .next t) : t.fb = s.fb := by
  obtain ⟨_, _, rfl⟩ | ⟨_, rfl⟩ | rfl | ⟨_, _, _, rfl⟩ | ⟨_, rfl⟩ | ⟨_, _, _, _, rfl⟩ := State.accept_cases h
  · exact s.writeBytes_fb _ _
  all_goals rfl

theorem State.accept_stack {r : Request} (h : s.accept r = .next t) : t.stack = s.stack := by
  obtain ⟨_, _, rfl⟩ | ⟨_, rfl⟩ | rfl | ⟨_, _, _, rfl⟩ | ⟨_, rfl⟩ | ⟨_, _, _, _, rfl⟩ := State.accept_cases h
  · exact s.writeBytes_stack _ _
  all_goals rfl

/-- A move that changes what neither a request nor the end of a call nor an error changes runs an instruction. -/
theorem exec_of_step_ne {α : Type} (f : State → α) (h : step s = .next t) (hne : f t ≠ f s)
    (haccept : ∀ {s t : State} {r : Request}, s.accept r = .next t → f t = f s)
    (herror : ∀ (s : State) (e : Fault) (r : CallResult), f (((s.setDidJump false).raise e).endCall r) = f s)
    (hend : ∀ s : State, f s.finishStep = f s) (hhost : ∀ (s : State) (p : HostPort), f (s.setHost p) = f s) :
    ∃ n, s.running n ∧ s.pc.toNat ≤ 0xFFE ∧
      ∃ u, exec (decode s.fetchWord) (s.setDidJump false) = .next u ∧ f u.advance ≠ f s := by
  obtain ⟨-, -, rfl⟩ | ⟨-, r, rest, -, hr⟩ | ⟨n, hrun, hcycle⟩ | ⟨-, -, rfl⟩ := step_cases h
  · exact absurd rfl hne
  · exact absurd ((haccept hr).trans (hhost s _)) hne
  · have ⟨_, hf, _⟩ := hrun
    obtain ⟨e, rfl⟩ | ⟨hp, u, hx, -, rfl⟩ := runCycle_ends hf hcycle
    · exact absurd (herror s e _) hne
    · exact ⟨n, hrun, hp, u, hx, fun hu => hne ((hhost _ _).trans hu)⟩
  · exact absurd (hend s) hne

/-- Settles O10: of what a move can do, only an instruction's frame may have a row in it. -/
theorem onlyClearAndDrawChangeTheFramebuffer : Obligations.OnlyClearAndDrawChangeTheFramebuffer := by
  intro s t h hne
  obtain ⟨n, hrun, hp, u, hx, hu⟩ := exec_of_step_ne State.fb h hne State.accept_fb (fun _ _ _ => rfl) (fun _ => rfl)
    (fun _ _ => rfl)
  exact ⟨n, hrun, hp, exec_of_fb_ne hx (u.advance_fb ▸ hu)⟩

/-- Settles O11: of what a move can do, only an instruction's frame may have the stack in it. -/
theorem onlyCallAndReturnChangeTheStack : Obligations.OnlyCallAndReturnChangeTheStack := by
  intro s t h hne
  obtain ⟨n, hrun, hp, u, hx, hu⟩ := exec_of_step_ne State.stack h hne State.accept_stack (fun _ _ _ => rfl)
    (fun _ => rfl) (fun _ _ => rfl)
  exact ⟨n, hrun, hp, exec_of_stack_ne hx (u.advance_stack ▸ hu)⟩

/-- Settles O12: inside a call a move is a cycle, which writes of the port only the count and the result, or the end. -/
theorem snapshotIsFixedDuringAStepCall : Obligations.SnapshotIsFixedDuringAStepCall := by
  intro s t hl h
  obtain ⟨hl', -⟩ | ⟨hl', -⟩ | ⟨n, ⟨-, hf, -⟩, hcycle⟩ | ⟨-, -, rfl⟩ := step_cases h
  · exact absurd hl' hl
  · exact absurd hl' hl
  · obtain ⟨e, rfl⟩ | ⟨-, u, hx, -, rfl⟩ := runCycle_ends hf hcycle
    · exact ⟨rfl, rfl, rfl⟩
    · simp [State.setLeft, exec_host hx]
  · exact ⟨rfl, rfl, rfl⟩

/-! ## When a move has no next state -/

theorem runCycle_next (s : State) (n : Nat) : ∃ t, s.runCycle n = .next t := by
  rcases Nat.lt_or_ge 0xFFE s.pc.toNat with hp | hp
  · exact ⟨_, runCycle_of_past hp⟩
  · obtain ⟨u, hx, -⟩ := exec_executes (decode s.fetchWord) (s.setDidJump false)
    exact ⟨_, runCycle_of_exec hp hx⟩

/-- Inside a call only the fault recorded before it stops a move. -/
theorem step_of_call {left : Nat} (hl : s.host.left = some left) :
    (∃ t, step s = .next t) ∨ ∃ e, s.faulted = some e ∧ step s = .fault e := by
  rcases hf : s.faulted with - | e
  · left
    rcases left with - | n
    · exact ⟨_, step_of_end hf (.inl hl)⟩
    · by_cases hw : s.waiting = none
      · rw [step_of_running ⟨hl, hf, hw⟩]
        exact runCycle_next s n
      · exact ⟨_, step_of_end hf (.inr ⟨n, hl, hw⟩)⟩
  · exact .inr ⟨e, rfl, by simp [step, State.move, hl, hf]⟩

/-- A request stops a move only as a `step` call of a faulted machine or as a load after a call. -/
theorem State.accept_outcome (s : State) (r : Request) :
    (∃ t, s.accept r = .next t) ∨ (∃ e, s.faulted = some e ∧ s.accept r = .fault e) ∨
      (s.accept r = .refused .loadAfterStep ∧ s.host.started = true ∧ ∃ bytes, r = .loadProgram bytes) := by
  cases r with
  | loadProgram bytes =>
    rcases hs : s.host.started with - | -
    · rcases Nat.lt_or_ge 3584 bytes.length with hl | hl
      · exact .inl ⟨_, State.loadProgram_of_too_long hs hl⟩
      · exact .inl ⟨_, State.loadProgram_of_fits hs hl⟩
    · exact .inr (.inr ⟨State.loadProgram_of_started hs, rfl, bytes, rfl⟩)
  | clearDirty => exact .inl ⟨_, rfl⟩
  | step ipf input =>
    rcases hf : s.faulted with - | e
    · exact .inl ⟨s.beginStep ipf input, by simp [State.accept, hf]⟩
    · exact .inr (.inl ⟨e, rfl, by simp [State.accept, hf]⟩)

theorem step_outcome (s : State) :
    (∃ t, step s = .next t) ∨ (∃ e, s.faulted = some e ∧ step s = .fault e) ∨
      (step s = .refused .loadAfterStep ∧ s.host.left = none ∧ s.host.started = true ∧
        ∃ bytes rest, s.host.requests = .loadProgram bytes :: rest) := by
  rcases hl : s.host.left with - | left
  · rcases hr : s.host.requests with - | ⟨r, rest⟩
    · exact .inl ⟨s, step_of_idle hl hr⟩
    · rw [step_of_request hl hr]
      obtain hnext | hfault | ⟨hrefused, hs, bytes, rfl⟩ := State.accept_outcome (s.dequeue rest) r
      · exact .inl hnext
      · exact .inr (.inl hfault)
      · exact .inr (.inr ⟨hrefused, rfl, hs, bytes, rest, rfl⟩)
  · exact (step_of_call hl).imp_right .inl

/-- Settles O13: of the three ways a move can end, each of the two that stop it has its one cause. -/
theorem stepStopsOnlyWhenFaultedOrLoadedLate : Obligations.StepStopsOnlyWhenFaultedOrLoadedLate := by
  constructor
  · intro s e h
    obtain ⟨_, hnext⟩ | ⟨_, hf, hfault⟩ | ⟨hrefused, -⟩ := step_outcome s
    · cases hnext.symm.trans h
    · rw [hf, Host.Outcome.fault.inj (hfault.symm.trans h)]
    · cases hrefused.symm.trans h
  · intro s why h
    obtain ⟨_, hnext⟩ | ⟨_, -, hfault⟩ | ⟨hrefused, hcause⟩ := step_outcome s
    · cases hnext.symm.trans h
    · cases hfault.symm.trans h
    · exact ⟨(Host.Outcome.refused.inj (hrefused.symm.trans h)).symm, hcause⟩

/-! ## The invariant -/

theorem skipTarget_toNat_le {p : Word} (hp : p.toNat ≤ 0xFFE) (c : Bool) : (skipTarget p c).toNat ≤ 0x1002 := by
  cases c
  · show (p + 2#16).toNat ≤ _
    rw [BitVec.toNat_add, BitVec.toNat_ofNat]
    omega
  · show (p + 4#16).toNat ≤ _
    rw [BitVec.toNat_add, BitVec.toNat_ofNat]
    omega

theorem add_two_toNat_le {p : Word} (hp : p.toNat ≤ 0xFFE) : (p + 2).toNat ≤ 0x1000 := by
  rw [BitVec.toNat_add]
  show (p.toNat + 2) % 2 ^ 16 ≤ _
  omega

/-- The farthest an instruction that was fetched goes is Bnnn with both summands at their largest (R17). -/
theorem pcAfter_toNat_le (hp : s.pc.toNat ≤ 0xFFE) (hret : ∀ r ∈ s.stack, r.toNat ≤ 0xFFE) (i : Instr) :
    (pcAfter s i).toNat ≤ 0x10FE := by
  cases i
  case jp nnn | call nnn =>
    have := nnn.isLt
    simp only [pcAfter, addrWord_toNat]
    omega
  case jpV0 nnn =>
    have := nnn.isLt
    have := (s.reg (offsetReg s.cfg nnn)).isLt
    simp only [pcAfter, State.offsetTarget_toNat]
    omega
  case ret =>
    rcases hs : s.stack with - | ⟨top, rest⟩
    · simp [pcAfter, hs]
    · simp only [pcAfter, hs, List.headD_cons]
      exact (add_two_toNat_le (hret top (by simp [hs]))).trans (by decide)
  case seImm | sneImm | seReg | sneReg | skp | sknp => exact (skipTarget_toNat_le hp _).trans (by decide)
  case ldVxK => exact hp.trans (by decide)
  all_goals exact (add_two_toNat_le hp).trans (by decide)

/-- The stack keeps its entries, loses the one on top, or takes the pc within the maximum depth. -/
theorem exec_stack_cases (h : exec i s = .next t) :
    t.stack = s.stack ∨ (∃ top, s.stack = top :: t.stack) ∨
      (t.stack = s.pc :: s.stack ∧ s.stack.length < s.cfg.maxStackDepth) := by
  by_cases hst : t.stack = s.stack
  · exact .inl hst
  obtain rfl | ⟨nnn, rfl⟩ := exec_of_stack_ne h hst
  · rcases hs : s.stack with - | ⟨top, rest⟩
    · obtain rfl := Host.Outcome.next.inj ((exec_ret_of_stack_eq_nil hs).symm.trans h)
      exact absurd rfl hst
    · obtain rfl := Host.Outcome.next.inj ((exec_ret_of_stack_eq_cons hs).symm.trans h)
      exact .inr (.inl ⟨top, rfl⟩)
  · obtain hroom | hfull := Nat.lt_or_ge s.stack.length s.cfg.maxStackDepth
    · obtain rfl := Host.Outcome.next.inj ((exec_call_of_room hroom nnn).symm.trans h)
      exact .inr (.inr ⟨rfl, hroom⟩)
    · obtain rfl := Host.Outcome.next.inj ((exec_call_of_full hfull nnn).symm.trans h)
      exact absurd rfl hst

/-- The two bounds on the stack (R19) are kept by an instruction that was fetched. -/
theorem exec_stack_bounds (h : exec i s = .next t) (hp : s.pc.toNat ≤ 0xFFE)
    (hlen : s.stack.length ≤ s.cfg.maxStackDepth) (hret : ∀ r ∈ s.stack, r.toNat ≤ 0xFFE) :
    t.stack.length ≤ s.cfg.maxStackDepth ∧ ∀ r ∈ t.stack, r.toNat ≤ 0xFFE := by
  obtain hst | ⟨top, hst⟩ | ⟨hst, hroom⟩ := exec_stack_cases h
  · rw [hst]
    exact ⟨hlen, hret⟩
  · rw [hst] at hlen hret
    exact ⟨(Nat.le_succ _).trans hlen, fun r hr => hret r (List.mem_cons_of_mem _ hr)⟩
  · rw [hst]
    exact ⟨hroom, List.forall_mem_cons.2 ⟨hp, hret⟩⟩

/-- An instruction that makes the core wait leaves the pc at itself (R78). -/
theorem advance_pc_of_waits (hf : s.faulted = none) (hw : s.waiting = none) (hj : s.didJump = false)
    (h : exec i s = .next t) (ht : t.faulted = none) (hwt : t.waiting ≠ none) : t.advance.pc = s.pc := by
  have hmem : .waiting ∈ writesOf s i := by
    by_contra hmem
    exact hwt (((sameExcept_of_exec h).waiting hmem).trans hw)
  obtain ⟨x, rfl⟩ := waiting_mem_writesOf hmem
  exact advance_pc_of_exec hf hw hj h ht

theorem State.inv_of_accept {r : Request} (hinv : s.Inv) (h : s.accept r = .next t) : t.Inv := by
  obtain ⟨hcfg, hmem, hlen, hret, hpc, hwait, hcall, hj⟩ := hinv
  obtain ⟨bytes, hfits, rfl⟩ | ⟨_, rfl⟩ | rfl | ⟨hf, _, _, rfl⟩ | ⟨_, rfl⟩ | ⟨hw, _, _, _, rfl⟩ := State.accept_cases h
  · have hmem' : (s.writeBytes 0x200 bytes).memWf := State.writeBytes_memWf hmem (by unfold memSize; omega)
    exact ⟨by simpa using hcfg, hmem', by simpa using hlen, by simpa using hret, by simpa using hpc,
      by simpa using hwait, fun _ => rfl, by simpa using hj⟩
  · exact ⟨hcfg, hmem, hlen, hret, hpc, hwait, fun _ => rfl, hj⟩
  · exact ⟨hcfg, hmem, hlen, hret, hpc, hwait, hcall, hj⟩
  · exact ⟨hcfg, hmem, hlen, hret, hpc, hwait, fun h' => absurd hf h', hj⟩
  · exact ⟨hcfg, hmem, hlen, hret, hpc, hwait, fun _ => rfl, hj⟩
  · exact ⟨hcfg, hmem, hlen, hret, (add_two_toNat_le (hwait hw)).trans (by decide), fun h' => absurd rfl h',
      fun _ => rfl, hj⟩

/-- A completed instruction of a state without an error leaves one, so that its call may go on. -/
theorem State.inv_of_exec {left : Option Nat} (hinv : s.Inv) (hf : s.faulted = none) (hw : s.waiting = none)
    (hp : s.pc.toNat ≤ 0xFFE) (hx : exec i s = .next u) (hu : u.faulted = none) : (u.advance.setLeft left).Inv := by
  obtain ⟨hcfg, hmem, hlen, hret, -, -, -, hj⟩ := hinv
  have hcfg' := exec_cfg hx
  have hmem' := memWf_of_exec hx hmem
  obtain ⟨hlen', hret'⟩ := exec_stack_bounds hx hp hlen hret
  have hpc' : u.advance.pc.toNat ≤ 0x10FE := advance_pc_of_exec hf hw hj hx hu ▸ pcAfter_toNat_le hp hret i
  have hwait' (hwu : u.waiting ≠ none) : u.advance.pc.toNat ≤ 0xFFE := advance_pc_of_waits hf hw hj hx hu hwu ▸ hp
  exact ⟨by simpa [State.setLeft, hcfg'] using hcfg, by simpa [State.setLeft, State.memWf] using hmem',
    by simpa [State.setLeft, hcfg'] using hlen', by simpa [State.setLeft] using hret', hpc',
    fun hwu => hwait' (by simpa [State.setLeft] using hwu), fun hfu => by simp [State.setLeft, hu] at hfu, rfl⟩

theorem State.inv_of_runCycle {n : Nat} (hinv : s.Inv) (hrun : s.running n) (h : s.runCycle n = .next t) : t.Inv := by
  obtain ⟨-, hf, hw⟩ := hrun
  obtain ⟨hcfg, hmem, hlen, hret, hpc, hwait, hcall, -⟩ := hinv
  obtain ⟨e, rfl⟩ | ⟨hp, u, hx, hu, rfl⟩ := runCycle_ends hf h
  · exact ⟨hcfg, hmem, hlen, hret, hpc, hwait, fun _ => rfl, rfl⟩
  · have hinv' : (s.setDidJump false).Inv := ⟨hcfg, hmem, hlen, hret, hpc, hwait, hcall, rfl⟩
    exact State.inv_of_exec hinv' hf hw hp hx hu

/-- Settles O7, by the kind of move. -/
theorem stepKeepsTheInvariant : Obligations.StepKeepsTheInvariant := by
  intro s t hinv h
  obtain ⟨-, -, rfl⟩ | ⟨-, r, rest, -, hr⟩ | ⟨n, hrun, hcycle⟩ | ⟨-, -, rfl⟩ := step_cases h
  · exact hinv
  · exact State.inv_of_accept (s := s.dequeue rest) hinv hr
  · exact State.inv_of_runCycle hinv hrun hcycle
  · obtain ⟨hcfg, hmem, hlen, hret, hpc, hwait, -, hj⟩ := hinv
    exact ⟨hcfg, hmem, hlen, hret, hpc, hwait, fun _ => rfl, hj⟩

end Sys2Proof.Machine
end

section
/-! The moves of a `step` call against R71's algorithm (40_engine_cycle.md): an instruction neither reads nor writes the
count of instructions left, so a call run in moves and the algorithm go through the same states but for that count. -/

namespace Sys2Proof.Machine

variable {s t : State} {l : Option Nat}

/-! ## Nothing but the engine sees the count -/

theorem State.setLeft_writeBytes (s : State) (l : Option Nat) (a : Nat) (bs : List Byte) :
    (s.setLeft l).writeBytes a bs = (s.writeBytes a bs).setLeft l := by
  induction bs generalizing s a with
  | nil => rfl
  | cons b bs ih => exact ih (s.writeByte a b) (a + 1)

theorem State.setLeft_skipIf (s : State) (l : Option Nat) (c : Bool) :
    (s.setLeft l).skipIf c = (s.skipIf c).setLeft l := by
  cases c <;> rfl

theorem State.setLeft_advance (s : State) (l : Option Nat) : (s.setLeft l).advance = s.advance.setLeft l := by
  show State.setDidJump (if s.faulted = none ∧ s.waiting = none ∧ s.didJump = false then _ else _) false = _
  unfold State.advance
  split <;> rfl

theorem State.setLeft_checked {a n : Nat} {f g : State → State} (h : f (s.setLeft l) = (g s).setLeft l) :
    (s.setLeft l).checked a n f = (s.checked a n g).setLeft l := by
  unfold State.checked
  split
  · rfl
  · exact h

theorem State.setLeft_keySkip (s : State) (l : Option Nat) (x : Reg) (cond : Key → Bool) :
    (s.setLeft l).keySkip x cond = (s.keySkip x cond).setLeft l := by
  rcases hk : keyOf (s.reg x) with - | k
  · have h := (keyOf_eq_none_iff _).1 hk
    rw [State.keySkip_of_no_key h, State.keySkip_of_no_key (by exact h)]
    rfl
  · have h := (keyOf_eq_some_iff _ k).1 hk
    rw [State.keySkip_of_key h, State.keySkip_of_key (k := k) (by exact h), State.setLeft_skipIf]

theorem State.readBytes_congr (h : ∀ a, t.readByte a = s.readByte a) (a n : Nat) :
    t.readBytes a n = s.readBytes a n := by
  induction n generalizing a with
  | zero => rfl
  | succ n ih => simp only [State.readBytes, h, ih]

theorem State.setLeft_drawn (s : State) (l : Option Nat) (x y : Reg) (n : Nibble) :
    (s.setLeft l).drawn x y n = s.drawn x y n :=
  congrArg (Canvas.drawRows _ _ _ _) (State.readBytes_congr (s := s) (t := s.setLeft l) (fun _ => rfl) _ _)

theorem exec_setLeft (i : Instr) (s : State) (l : Option Nat) :
    ∃ t, exec i s = .next t ∧ exec i (s.setLeft l) = .next (t.setLeft l) :=
  match i with
  | .ret =>
    match hs : s.stack with
    | [] => ⟨_, exec_ret_of_stack_eq_nil hs, exec_ret_of_stack_eq_nil hs⟩
    | _ :: _ => ⟨_, exec_ret_of_stack_eq_cons hs, exec_ret_of_stack_eq_cons hs⟩
  | .call nnn =>
    (Nat.lt_or_ge s.stack.length s.cfg.maxStackDepth).elim
      (fun hroom => ⟨_, exec_call_of_room hroom nnn, exec_call_of_room (s := s.setLeft l) hroom nnn⟩)
      (fun hfull => ⟨_, exec_call_of_full hfull nnn, exec_call_of_full (s := s.setLeft l) hfull nnn⟩)
  | .addI x =>
    if h : 0xFFFF < s.indexSum x ∧ s.cfg.indexOverflow = .fault then
      ⟨_, exec_addI_of_overflow h.1 h.2, exec_addI_of_overflow h.1 h.2⟩
    else ⟨_, exec_addI_of_no_error h, exec_addI_of_no_error h⟩
  | .seImm _ _ | .sneImm _ _ | .seReg _ _ _ | .sneReg _ _ _ =>
    ⟨_, rfl, congrArg Host.Outcome.next (s.setLeft_skipIf l _)⟩
  | .skp x | .sknp x => ⟨_, rfl, congrArg Host.Outcome.next (s.setLeft_keySkip l x _)⟩
  | .drw x y n => ⟨_, rfl, congrArg Host.Outcome.next (State.setLeft_checked (by rw [s.setLeft_drawn l x y n]; rfl))⟩
  | .loadRegs _ => ⟨_, rfl, congrArg Host.Outcome.next (State.setLeft_checked rfl)⟩
  | .ldB _ => ⟨_, rfl, congrArg Host.Outcome.next (State.setLeft_checked (s.setLeft_writeBytes l _ _))⟩
  | .storeRegs _ => ⟨_, rfl, congrArg Host.Outcome.next
      (State.setLeft_checked (congrArg (State.setI · _) (s.setLeft_writeBytes l _ _)))⟩
  | .cls | .nop0 _ | .jp _ | .jpV0 _ | .ldImm _ _ | .addImm _ _ | .ldReg _ _ | .orReg _ _ | .andReg _ _
  | .xorReg _ _ | .addReg _ _ | .subReg _ _ | .shr _ _ | .subn _ _ | .shl _ _ | .nop8 _ _ _ | .ldI _
  | .rnd _ _ | .nopE _ _ | .ldVxDt _ | .ldVxK _ | .ldDtVx _ | .ldStVx _ | .ldF _ | .nopF _ _ => ⟨_, rfl, rfl⟩

theorem State.cycle_setLeft (s : State) (l : Option Nat) :
    ∃ t, s.cycle = .next t ∧ (s.setLeft l).cycle = .next (t.setLeft l) := by
  rcases Nat.lt_or_ge 0xFFE s.pc.toNat with hp | hp
  · exact ⟨_, State.cycle_of_past hp, State.cycle_of_past (s := s.setLeft l) hp⟩
  · obtain ⟨u, hx, hx'⟩ := exec_setLeft (decode s.fetchWord) (s.setDidJump false) l
    refine ⟨u.advance, ?_, ?_⟩
    · rw [State.cycle_of_fetch hp, hx]
      rfl
    · have hx'' : exec (decode (s.setLeft l).fetchWord) ((s.setLeft l).setDidJump false) = _ := hx'
      rw [State.cycle_of_fetch (s := s.setLeft l) hp, hx'']
      exact congrArg Host.Outcome.next (u.setLeft_advance l)

/-! ## The instruction loop -/

section stepLoop
variable {n : Nat}

theorem stepLoop_of_waits (hw : s.waiting ≠ none) : stepLoop (n + 1) s = .next s.finishStep := by
  simp [stepLoop, Option.isSome_iff_ne_none, hw]

theorem stepLoop_of_ok (hw : s.waiting = none) (hc : s.cycle = .next t) (ht : t.faulted = none) :
    stepLoop (n + 1) s = stepLoop n t := by
  simp [stepLoop, hw, hc, ht]

theorem stepLoop_of_error {e : Fault} (hw : s.waiting = none) (hc : s.cycle = .next t) (ht : t.faulted = some e) :
    stepLoop (n + 1) s = .next (t.endCall (.err e)) := by
  simp [stepLoop, hw, hc, ht]

end stepLoop

/-- The loop of R71 from a state, and the moves from that state inside a call with as many instructions left. -/
theorem run_eq_stepLoop (n : Nat) (hf : s.faulted = none) :
    ∃ k, k ≤ n + 1 ∧ Host.Core.run core k (s.setLeft (some n)) = stepLoop n s := by
  induction n generalizing s with
  | zero => exact ⟨1, Nat.le_refl _, run_succ_of_next (step_of_end (s := s.setLeft (some 0)) hf (.inl rfl)) 0⟩
  | succ n ih =>
    by_cases hw : s.waiting = none
    · obtain ⟨t, hc, hc'⟩ := s.cycle_setLeft (some (n + 1))
      have hstep : step (s.setLeft (some (n + 1))) = .next ((t.setLeft (some (n + 1))).afterCycle n) := by
        rw [step_of_running (s := s.setLeft (some (n + 1))) ⟨rfl, hf, hw⟩, State.runCycle, hc']
      rcases ht : t.faulted with - | e
      · rw [State.afterCycle_of_ok (by exact ht)] at hstep
        obtain ⟨k, hk, hrun⟩ := ih ht
        exact ⟨k + 1, by omega, (run_succ_of_next hstep k).trans (hrun.trans (stepLoop_of_ok hw hc ht).symm)⟩
      · rw [State.afterCycle_of_error (e := e) (by exact ht)] at hstep
        exact ⟨1, by omega, (run_succ_of_next hstep 0).trans (stepLoop_of_error hw hc ht).symm⟩
    · have hstep := step_of_end (s := s.setLeft (some (n + 1))) hf (.inr ⟨n, rfl, hw⟩)
      exact ⟨1, by omega, (run_succ_of_next hstep 0).trans (stepLoop_of_waits hw).symm⟩

/-! ## The statement -/

section stepCall
variable {x : Reg} {ipf : BitVec 32} {input : Input}

theorem stepCall_of_ready (hf : s.faulted = none) (hw : s.waiting = none) :
    stepCall ipf input s = stepLoop ipf.toNat (s.latch input) := by
  simp [stepCall, State.latch, hf, hw]

theorem stepCall_of_waiting (hf : s.faulted = none) (hw : s.waiting = some x) :
    stepCall ipf input s = .next ((s.latch input).resolveWait x).finishStep := by
  simp [stepCall, State.latch, hf, hw]

end stepCall

/-- Settles O8, by whether the call finds the core waiting: if so the first move is the whole call, and if not it begins
the loop, whose cycles and end are the moves after it. -/
theorem movesComputeTheStepCall : Obligations.MovesComputeTheStepCall := by
  intro s ipf input rest hl hf hr
  rcases hw : s.waiting with - | x
  · obtain ⟨k, hk, hrun⟩ := run_eq_stepLoop (s := (s.dequeue rest).latch input) ipf.toNat hf
    exact ⟨k + 1, by omega, (run_succ_of_next (step_of_call_ready hl hf hw hr) k).trans
      (hrun.trans (stepCall_of_ready (s := s.dequeue rest) hf hw).symm)⟩
  · exact ⟨1, by omega, (run_succ_of_next (step_of_call_waiting hl hf hw hr) 0).trans
      (stepCall_of_waiting (s := s.dequeue rest) hf hw).symm⟩

end Sys2Proof.Machine
end

section
/-! Drawing a sprite (43_display.md R113 to R117): what the rows of a sprite together put into each row of the
framebuffer, the pixels of that, and the two statements. -/

namespace Sys2Proof.Machine

/-! ## The rows of a sprite together -/

/-- The mask a sprite XORs into framebuffer row `q`, its first byte drawn at row `row` of the plane. -/
def spriteMask (cfg : Config) (cx : Nat) (q : Fin 32) (row : Nat) : List Byte → Row
  | [] => 0
  | b :: bs =>
    (if targetRow cfg.drawRowMode row = some q then rowMask cfg.drawColMode b cx else 0) ^^^
      spriteMask cfg cx q (row + 1) bs

section rows
variable {cfg : Config} {cx row : Nat} {q : Fin 32} {bs : List Byte}

theorem targetRow_wrap_eq_some_iff : targetRow .wrap row = some q ↔ row % 32 = q.val := by
  unfold targetRow
  split
  · rename_i h
    simp [Fin.ext_iff, Nat.mod_eq_of_lt h]
  · simp [Fin.ext_iff]

theorem targetRow_clip_eq_some_iff : targetRow .clip row = some q ↔ row = q.val := by
  unfold targetRow
  split
  · simp [Fin.ext_iff]
  · have := q.isLt
    simp only [reduceCtorEq, false_iff]
    omega

/-- Rows of the plane less than 32 apart do not come to the same row of the framebuffer, in either mode (R115). -/
theorem targetRow_inj {mode : RowMode} {k : Nat} (hk : 0 < k) (hk' : k < 32) (h : targetRow mode row = some q) :
    targetRow mode (row + k) ≠ some q := by
  cases mode with
  | wrap =>
    rw [targetRow_wrap_eq_some_iff] at h
    rw [ne_eq, targetRow_wrap_eq_some_iff]
    omega
  | clip =>
    rw [targetRow_clip_eq_some_iff] at h
    rw [ne_eq, targetRow_clip_eq_some_iff]
    omega

theorem spriteMask_of_no_hit (h : ∀ k < bs.length, targetRow cfg.drawRowMode (row + k) ≠ some q) :
    spriteMask cfg cx q row bs = 0 := by
  induction bs generalizing row with
  | nil => rfl
  | cons b bs ih =>
    have hrest : spriteMask cfg cx q (row + 1) bs = 0 := ih fun k hk => by
      have := h (k + 1) (by simpa using hk)
      rwa [Nat.add_assoc, Nat.add_comm 1]
    have hfirst : targetRow cfg.drawRowMode row ≠ some q := h 0 (Nat.succ_pos _)
    simp [spriteMask, hfirst, hrest]

theorem spriteMask_of_hit {k : Nat} (hlen : bs.length ≤ 32) (hk : k < bs.length)
    (h : targetRow cfg.drawRowMode (row + k) = some q) :
    spriteMask cfg cx q row bs = rowMask cfg.drawColMode bs[k] cx := by
  induction bs generalizing row k with
  | nil => simp at hk
  | cons b bs ih =>
    simp only [List.length_cons] at hlen hk
    rcases k with - | k
    · have hrest : spriteMask cfg cx q (row + 1) bs = 0 := spriteMask_of_no_hit fun j hj => by
        rw [Nat.add_assoc]
        exact targetRow_inj (by omega) (by omega) h
      have h0 : targetRow cfg.drawRowMode row = some q := h
      simp [spriteMask, h0, hrest]
    · have hfirst : targetRow cfg.drawRowMode row ≠ some q := fun h0 => targetRow_inj (by omega) (by omega) h0 h
      have hrest := ih (row := row + 1) (k := k) (by omega) (by omega) (by rwa [Nat.add_assoc, Nat.add_comm 1])
      simp [spriteMask, hfirst, hrest]

/-- One byte takes its mask in its row alone (R113). -/
theorem Canvas.drawRow_fb (c : Canvas) (b : Byte) : (Canvas.drawRow cfg c cx row b).fb[q] =
    c.fb[q] ^^^ (if targetRow cfg.drawRowMode row = some q then rowMask cfg.drawColMode b cx else 0) := by
  unfold Canvas.drawRow
  split
  · rename_i h
    simp [h]
  · rename_i r h
    rw [Canvas.xorRow_fb, h]
    by_cases hq : r = q
    · simp [hq]
    · simp [hq]

theorem Canvas.drawRow_collided (c : Canvas) (b : Byte) : (Canvas.drawRow cfg c cx row b).collided = true ↔
    c.collided = true ∨ ∃ q, targetRow cfg.drawRowMode row = some q ∧ c.fb[q] &&& rowMask cfg.drawColMode b cx ≠ 0 := by
  unfold Canvas.drawRow
  split
  · rename_i h
    simp [h]
  · rename_i r h
    simp [Canvas.xorRow_collided, h]

theorem Canvas.drawRows_fb (c : Canvas) :
    (Canvas.drawRows cfg c cx row bs).fb[q] = c.fb[q] ^^^ spriteMask cfg cx q row bs := by
  induction bs generalizing c row with
  | nil => simp [Canvas.drawRows, spriteMask]
  | cons b bs ih => rw [Canvas.drawRows, ih, Canvas.drawRow_fb, spriteMask, BitVec.xor_assoc]

/-- A draw of at most 32 rows comes to each framebuffer row once, so it collides iff some row had a pixel of its mask on
before the draw (R116). -/
theorem Canvas.drawRows_collided (c : Canvas) (hlen : bs.length ≤ 32) :
    (Canvas.drawRows cfg c cx row bs).collided = true ↔
      c.collided = true ∨ ∃ q, c.fb[q] &&& spriteMask cfg cx q row bs ≠ 0 := by
  induction bs generalizing c row with
  | nil => simp [Canvas.drawRows, spriteMask]
  | cons b bs ih =>
    simp only [List.length_cons] at hlen
    rw [Canvas.drawRows, ih _ (by omega), Canvas.drawRow_collided, or_assoc, ← exists_or]
    refine or_congr_right (exists_congr fun q => ?_)
    by_cases h : targetRow cfg.drawRowMode row = some q
    · have hrest : spriteMask cfg cx q (row + 1) bs = 0 := spriteMask_of_no_hit fun k hk => by
        rw [Nat.add_assoc]
        exact targetRow_inj (by omega) (by omega) h
      simp [spriteMask, h, hrest]
    · rw [Canvas.drawRow_fb]
      simp [spriteMask, h]

end rows

/-! ## The pixels of a sprite (R113 to R115) -/

variable {s t : State}

/-- The row of a sprite drawn from row `cy` on that comes to framebuffer row `q`; 32, past every sprite, where Clip lets
none. -/
def spriteRowIndex (mode : RowMode) (cy : Nat) (q : Fin 32) : Nat :=
  match mode with
  | .wrap => (q.val + 32 - cy) % 32
  | .clip => if cy ≤ q.val then q.val - cy else 32

/-- The pixel of a sprite row drawn from column `cx` on that comes to column `c`; 64, past every row, where Clip lets
none. -/
def spriteColumnIndex (mode : ColMode) (cx : Nat) (c : Fin 64) : Nat :=
  match mode with
  | .wrap => (c.val + 64 - cx) % 64
  | .clip => if cx ≤ c.val then c.val - cx else 64

theorem State.spritePixel_eq (s : State) (x y : Reg) (n : Nibble) (c : Fin 64) (q : Fin 32) :
    s.spritePixel x y n c q =
      (decide (spriteRowIndex s.cfg.drawRowMode (s.spriteRow y) q < n.toNat) &&
        decide (spriteColumnIndex s.cfg.drawColMode (s.spriteColumn x) c < 8) &&
        (s.readByte (s.i.toNat + spriteRowIndex s.cfg.drawRowMode (s.spriteRow y) q)).getLsbD
          (7 - spriteColumnIndex s.cfg.drawColMode (s.spriteColumn x) c)) := rfl

theorem targetRow_eq_some_iff (mode : RowMode) {cy k : Nat} (hcy : cy < 32) (hk : k < 32) (q : Fin 32) :
    targetRow mode (cy + k) = some q ↔ k = spriteRowIndex mode cy q := by
  have := q.isLt
  cases mode with
  | wrap =>
    rw [targetRow_wrap_eq_some_iff, spriteRowIndex]
    omega
  | clip =>
    rw [targetRow_clip_eq_some_iff, spriteRowIndex]
    split <;> omega

theorem rowMask_getLsbD (mode : ColMode) (b : Byte) {cx : Nat} (hcx : cx < 64) (c : Fin 64) :
    (rowMask mode b cx).getLsbD (63 - c) =
      (decide (spriteColumnIndex mode cx c < 8) && b.getLsbD (7 - spriteColumnIndex mode cx c)) := by
  obtain ⟨hclip, hwrap⟩ := rowMaskPlacesThePixels b cx c hcx
  cases mode with
  | wrap => exact hwrap
  | clip =>
    rw [hclip]
    by_cases h : cx ≤ c.val <;> simp [spriteColumnIndex, h]

theorem State.spriteMask_getLsbD (s : State) (x y : Reg) (n : Nibble) (c : Fin 64) (q : Fin 32) :
    (spriteMask s.cfg (s.spriteColumn x) q (s.spriteRow y) (s.sprite n)).getLsbD (63 - c) =
      s.spritePixel x y n c q := by
  have hcx : s.spriteColumn x < 64 := Nat.mod_lt _ (by decide)
  have hcy : s.spriteRow y < 32 := Nat.mod_lt _ (by decide)
  have hn := n.isLt
  have hlen : (s.sprite n).length = n.toNat := s.readBytes_length _ _
  rw [State.spritePixel_eq]
  by_cases hr : spriteRowIndex s.cfg.drawRowMode (s.spriteRow y) q < n.toNat
  · rw [spriteMask_of_hit (by omega) (hlen ▸ hr) ((targetRow_eq_some_iff _ hcy (by omega) q).2 rfl),
      rowMask_getLsbD _ _ hcx]
    simp [hr, State.sprite, State.readBytes_getElem]
  · rw [spriteMask_of_no_hit]
    · simp [hr]
    · intro k hk h
      have := (targetRow_eq_some_iff _ hcy (by omega) q).1 h
      omega

/-- A row is not 0 iff some column of it is on. -/
theorem row_ne_zero_iff (r : Row) : r ≠ 0 ↔ ∃ c : Fin 64, r.getLsbD (63 - c) = true := by
  constructor
  · intro h
    by_contra hc
    refine h (BitVec.eq_of_getLsbD_eq fun k hk => ?_)
    have : r.getLsbD (63 - (63 - k)) = false := by simpa using not_exists.1 hc ⟨63 - k, by omega⟩
    simpa [show 63 - (63 - k) = k by omega] using this
  · rintro ⟨c, hc⟩ rfl
    simp at hc

/-! ## The framebuffer and VF after a draw -/

/-- A framebuffer is its pixels. -/
theorem State.fb_eq_of_pixel (h : ∀ c q, t.pixel c q = s.pixel c q) : t.fb = s.fb := by
  refine Vector.ext fun q hq => BitVec.eq_of_getLsbD_eq fun k hk => ?_
  have := h ⟨63 - k, by omega⟩ ⟨q, hq⟩
  simpa [State.pixel, show 63 - (63 - k) = k by omega] using this

theorem collisionFlag_eq_one_iff (b : Bool) : collisionFlag b = 1 ↔ b = true := by
  cases b <;> decide

theorem State.drawn_pixel (s : State) (x y : Reg) (n : Nibble) (c : Fin 64) (q : Fin 32) :
    (s.drawn x y n).fb[q].getLsbD (63 - c) = (s.pixel c q ^^ s.spritePixel x y n c q) := by
  rw [State.drawn, Canvas.drawRows_fb, BitVec.getLsbD_xor, State.spriteMask_getLsbD]
  rfl

theorem State.drawn_collided (s : State) (x y : Reg) (n : Nibble) :
    (s.drawn x y n).collided = true ↔ ∃ c q, s.pixel c q = true ∧ s.spritePixel x y n c q = true := by
  have hlen : (s.sprite n).length ≤ 32 := by
    have := n.isLt
    rw [State.sprite, State.readBytes_length]
    omega
  rw [State.drawn, Canvas.drawRows_collided _ hlen, exists_comm]
  simp only [row_ne_zero_iff, BitVec.getLsbD_and, State.spriteMask_getLsbD, Bool.and_eq_true, Bool.false_eq_true,
    false_or]
  rfl

/-- A draw whose bytes are in memory (R113, R116): the pixels, the flag, `dirty`, and nothing else. -/
theorem exec_drw_pixels {n : Nibble} (h : n = 0 ∨ s.i.toNat + n.toNat ≤ 0x1000) (x y : Reg) :
    ∃ t, exec (.drw x y n) s = .next t ∧ (∀ c q, t.pixel c q = (s.pixel c q ^^ s.spritePixel x y n c q)) ∧
      (t.reg 15 = 1 ∨ t.reg 15 = 0) ∧
      (t.reg 15 = 1 ↔ ∃ c q, s.pixel c q = true ∧ s.spritePixel x y n c q = true) ∧ t.dirty = true ∧
      State.SameExcept ([.reg 15, .dirty] ++ allRows) s t := by
  have hflag (f : Byte) : (((s.setFb (s.drawn x y n).fb).setReg regVF f).setDirty true).reg 15 = f :=
    State.reg_setReg_self _ regVF f
  refine ⟨_, exec_drw_of_fits (h.imp_left (congrArg BitVec.toNat)) x y, s.drawn_pixel x y n, ?_, ?_, rfl,
    s.sameExcept_setFb_setReg_setDirty _ _ _ _⟩
  · rw [hflag]
    cases (s.drawn x y n).collided
    · exact .inr rfl
    · exact .inl rfl
  · rw [hflag, collisionFlag_eq_one_iff, State.drawn_collided]

/-! ## The statements -/

/-- Settles O46: a pixel that was on and is toggled goes off, and no other does. -/
theorem drawTogglesTheSpritePixels : Obligations.DrawTogglesTheSpritePixels := by
  refine fun x y n => ⟨Instr.encodedAs_of_nibbles 0xD#4 rfl rfl, fun s h => ?_⟩
  obtain ⟨t, ht, hpix, hbit, hflag, hdirty, hframe⟩ := exec_drw_pixels h x y
  refine ⟨t, ht, hpix, hbit, hflag.trans ?_, hdirty, hframe⟩
  refine exists_congr fun c => exists_congr fun q => and_congr_right fun hon => ?_
  simp [hpix, hon]

/-- The sprite is read through the configuration, the index, the two coordinates and memory. -/
theorem State.spritePixel_congr {x y : Reg} {w : List Part} (h : State.SameExcept w s t)
    (hw : .cfg ∉ w ∧ .index ∉ w ∧ ∀ a, .byte a ∉ w) (hx : t.reg x = s.reg x) (hy : t.reg y = s.reg y) (n : Nibble)
    (c : Fin 64) (q : Fin 32) : t.spritePixel x y n c q = s.spritePixel x y n c q := by
  obtain ⟨hcfg, hindex, hbyte⟩ := hw
  simp only [State.spritePixel, hx, hy, h.cfg hcfg, h.index hindex, h.byte _ (hbyte _)]

/-- Settles O49: the second draw toggles the same pixels back, and what it turns off is what the first turned on. -/
theorem drawingTwiceRestoresTheFramebuffer : Obligations.DrawingTwiceRestoresTheFramebuffer := by
  intro x y n s h
  obtain ⟨t, ht, hpix, -, -, hdirty, hframe⟩ := exec_drw_pixels h x y
  refine ⟨t, ht, hdirty, fun hx hy => ?_⟩
  have hi : t.i = s.i := hframe.index (by simp [allRows])
  have hsprite := State.spritePixel_congr hframe (by simp [allRows]) hx hy n
  obtain ⟨u, hu, hpix', -, hflag, hdirty', -⟩ := exec_drw_pixels (s := t) (hi ▸ h) x y
  refine ⟨u, hu, hdirty', State.fb_eq_of_pixel fun c q => ?_, hflag.trans ?_⟩
  · rw [hpix', hsprite, hpix, Bool.xor_assoc, Bool.xor_self, Bool.xor_false]
  · refine exists_congr fun c => exists_congr fun q => ?_
    rw [hsprite, hpix]
    cases s.pixel c q <;> cases s.spritePixel x y n c q <;> simp

end Sys2Proof.Machine
end
